-- ==== Sys2Proof/Word.lean ====
section
/-! DEFINITION. The data path's word: one byte (20_memory.md R41). Addresses and clock values are
naturals (00_scope.md R10, R31), so they need no type of their own. -/

namespace Sys2Proof

/-- A byte, an unsigned 8-bit value (R10, R41). -/
abbrev Byte := BitVec 8

end Sys2Proof
end

