-- ==== Sys2Proof/Config.lean ====
section
/-! DEFINITION. The configuration record of 00_scope.md R6, the example configuration
of R9, and the free values (`draw` of R10). -/

namespace Sys2Proof

/-- The implementation parameters of R6. A field with a default value has the default R6 gives it; the
fields without one are OPEN in R6 (`SHIFT_DATA_BIT` is OPEN with a default). `DELAYS_ENABLED` is a host
input and stands in State (R31); the derived entries (`PAGE_MASK`, `BANK_MASK`, `TOP_BIT`) are functions
in Machine/Operands.lean. UNVERIFIED: the IDs, the toggle position, the array size and the sector mask
are the spec's defaults from general knowledge (log 16). -/
structure Config where
  flashSize          : Nat  := 0x80000
  manufacturerId     : Byte := 0xBF#8
  deviceId           : Byte := 0xB7#8
  sectorMask         : Nat  := 0x7F000
  programDelayUs     : Nat  := 8
  chipEraseDelayUs   : Nat  := 95000
  sectorEraseDelayUs : Nat  := 20000
  dataPollBit        : Nat  := 7
  toggleBit          : Nat  := 6
  oobStartsBusy      : Bool := true
  shiftDataBit       : Nat  := 0
  clockRate          : Nat
  windowBase         : Nat
  windowSize         : Nat
  split              : Nat
  pageShift          : Nat
  bankBits           : Nat
deriving DecidableEq, Repr

/-- The example configuration `EX` of R9, used for evidence and, by DESIGN CHOICE, as the configuration
of `State.reset` (log 1, unsafe there). -/
def Config.ex : Config :=
  { clockRate := 2000000, windowBase := 0x8000, windowSize := 0x8000, split := 0x4000,
    pageShift := 14, bankBits := 5 }

/-- The n-th drawn byte: what a window read beyond the array returns (R46, U12). It has no body, so no
proof can know a value of it (log 6). -/
opaque Config.freeByte : Nat → Byte

/-- The n-th drawn natural, reduced into `[0, BANK_MASK]` where it is used: the bank-select register at
power-on and after `HardReset` (R232, U13; log 6, log 7). -/
opaque Config.freeBank : Nat → Nat

end Sys2Proof
end

