-- ==== Sys2Proof/Machine/Fields.lean ====
section
/-! DEFINITION. The fields of a cycle that the decoder and the well-formedness checks compare: the command
address, and the portion of the window a host address is in. -/

namespace Sys2Proof

/-- `CMD_ADDR_MASK` (R6, R47): the address bits the command decoder compares. -/
def cmdAddrMask : Nat := 0x7FFF

/-- The command address `A & CMD_ADDR_MASK` of a flat address (R47, R64). -/
def cmdAddr (a : Nat) : Nat := a &&& cmdAddrMask

/-- The address and data of the cycle are the command write `ca = v`, for example `5555=AA` (R61). -/
abbrev isCommand (ca : Nat) (d : Byte) (a : Nat) (v : Byte) : Prop := cmdAddr a = ca ∧ v = d

/-- `h` is in the lower portion of the window (R43, R190). -/
abbrev Config.inLower (c : Config) (h : Nat) : Prop := c.windowBase ≤ h ∧ h < c.windowBase + c.split

/-- `h` is in the upper portion of the window (R43, R190). -/
abbrev Config.inUpper (c : Config) (h : Nat) : Prop :=
  c.windowBase + c.split ≤ h ∧ h < c.windowBase + c.windowSize

/-- `h` is in the window (R43). -/
abbrev Config.inWindow (c : Config) (h : Nat) : Prop := c.windowBase ≤ h ∧ h < c.windowBase + c.windowSize

end Sys2Proof
end

