-- ==== Sys2Proof/Syntax.lean ====
section
/-! DEFINITION. The syntax of the block's programs: the bus cycles of 30_encoding.md R60, the protocol
stage and decode context of R62, and one instruction per row of spec/opcode_table.json. -/

namespace Sys2Proof

/-- `s.mode` (10_state.md R21). -/
inductive Mode where
  | waitingForCommand
  | write
  | erase
deriving DecidableEq, Repr

/-- The position in the command protocol: the seven `(mode, cycle)` pairs that R23 allows, and no other,
as R23 asks of the model's state type (DEDUCED, log 5). -/
inductive Stage where
  /-- `(WaitingForCommand, 0)`: the first unlock byte is awaited. -/
  | wait0
  /-- `(WaitingForCommand, 1)`: the second unlock byte is awaited. -/
  | wait1
  /-- `(WaitingForCommand, 2)`: the command byte is awaited. -/
  | wait2
  /-- `(Write, 3)`: the program data byte is awaited. -/
  | write3
  /-- `(Erase, 3)`: the first byte of the second unlock is awaited. -/
  | erase3
  /-- `(Erase, 4)`: the second byte of the second unlock is awaited. -/
  | erase4
  /-- `(Erase, 5)`: the erase command byte is awaited. -/
  | erase5
deriving DecidableEq, Repr

/-- The mode of a stage (R23). -/
def Stage.mode : Stage → Mode
  | .wait0 => .waitingForCommand
  | .wait1 => .waitingForCommand
  | .wait2 => .waitingForCommand
  | .write3 => .write
  | .erase3 => .erase
  | .erase4 => .erase
  | .erase5 => .erase

/-- The cycle of a stage (R22, R23). -/
def Stage.cycle : Stage → Nat
  | .wait0 => 0
  | .wait1 => 1
  | .wait2 => 2
  | .write3 => 3
  | .erase3 => 3
  | .erase4 => 4
  | .erase5 => 5

/-- What the decoder reads besides the cycle itself (R62, R80): the stage, whether the chip is busy at
the access, and the software-ID flag (which only the chip read looks at). -/
structure Context where
  stage      : Stage
  busy       : Bool
  softwareId : Bool
deriving DecidableEq, Repr

/-- One bus cycle, the encoded form of an instruction (R60). -/
inductive Cycle where
  /-- Format `CW`: a chip write of byte `v` at flat address `a`. -/
  | cw (a : Nat) (v : Byte)
  /-- Format `CR`: a chip read at flat address `a`. -/
  | cr (a : Nat)
  /-- Format `BW`: a host write of byte `v` at host address `h`. -/
  | bw (h : Nat) (v : Byte)
  /-- Format `BR`: a host read at host address `h`. -/
  | br (h : Nat)
deriving DecidableEq, Repr

/-- The instructions: one constructor per row of spec/opcode_table.json, in the table's order, each with
the operands of its format (R60). `a` is the flat address, `h` the host address, `v` the data byte; an
operand that a row's effect ignores is kept, so that no bit of a cycle is lost (log 18). -/
inductive Instr where
  | busyIgnore (a : Nat) (v : Byte)
  | unlock1 (a : Nat) (v : Byte)
  | idExitShort (a : Nat) (v : Byte)
  | ignoreAt0 (a : Nat) (v : Byte)
  | unlock2 (a : Nat) (v : Byte)
  | abortAt1 (a : Nat) (v : Byte)
  | eraseSetup (a : Nat) (v : Byte)
  | idEntry (a : Nat) (v : Byte)
  | programSetup (a : Nat) (v : Byte)
  | idExitLong (a : Nat) (v : Byte)
  | abortAt2Cmd (a : Nat) (v : Byte)
  | abortAt2Addr (a : Nat) (v : Byte)
  | program (a : Nat) (v : Byte)
  | eraseUnlock1 (a : Nat) (v : Byte)
  | abortAtE3 (a : Nat) (v : Byte)
  | eraseUnlock2 (a : Nat) (v : Byte)
  | abortAtE4 (a : Nat) (v : Byte)
  | chipErase (a : Nat) (v : Byte)
  | sectorErase (a : Nat) (v : Byte)
  | eraseNone (a : Nat) (v : Byte)
  | readId (a : Nat)
  | readStatus (a : Nat)
  | readArray (a : Nat)
  | flashForward (h : Nat) (v : Byte)
  | bankShift (h : Nat) (v : Byte)
  | windowRead (h : Nat)
deriving DecidableEq, Repr

end Sys2Proof
end

