-- ==== Sys2Proof/WellFormed.lean ====
section
/-! DEFINITION. What makes a configuration (00_scope.md R7) and an instruction (the operand conditions of
the opcode table's rows and of 30_encoding.md R63) well formed, and in which context a row stands (R62). -/

namespace Sys2Proof

/-- R7: a model refuses a configuration that is not well formed. -/
abbrev Config.wf (c : Config) : Prop :=
  1 ≤ c.flashSize ∧ c.split ≤ c.windowSize ∧ 1 ≤ c.bankBits ∧
  c.dataPollBit < 8 ∧ c.toggleBit < 8 ∧ c.dataPollBit ≠ c.toggleBit ∧ c.shiftDataBit < 8 ∧
  c.sectorMask &&& 0xFFF = 0 ∧ 1 ≤ c.clockRate

/-- The operands are ones the row is selected for (R63; the `match`, `mask` and priority of the table). -/
def Instr.wellFormed (c : Config) : Instr → Bool
  | .busyIgnore _ _ => true
  | .unlock1 a v => decide (isCommand 0x5555 0xAA#8 a v)
  | .idExitShort _ v => decide (v = 0xF0#8)
  | .ignoreAt0 a v => decide (¬ isCommand 0x5555 0xAA#8 a v ∧ v ≠ 0xF0#8)
  | .unlock2 a v => decide (isCommand 0x2AAA 0x55#8 a v)
  | .abortAt1 a v => decide (¬ isCommand 0x2AAA 0x55#8 a v)
  | .eraseSetup a v => decide (isCommand 0x5555 0x80#8 a v)
  | .idEntry a v => decide (isCommand 0x5555 0x90#8 a v)
  | .programSetup a v => decide (isCommand 0x5555 0xA0#8 a v)
  | .idExitLong a v => decide (isCommand 0x5555 0xF0#8 a v)
  | .abortAt2Cmd a v => decide (cmdAddr a = 0x5555 ∧ v ≠ 0x80#8 ∧ v ≠ 0x90#8 ∧ v ≠ 0xA0#8 ∧ v ≠ 0xF0#8)
  | .abortAt2Addr a _ => decide (cmdAddr a ≠ 0x5555)
  | .program _ _ => true
  | .eraseUnlock1 a v => decide (isCommand 0x5555 0xAA#8 a v)
  | .abortAtE3 a v => decide (¬ isCommand 0x5555 0xAA#8 a v)
  | .eraseUnlock2 a v => decide (isCommand 0x2AAA 0x55#8 a v)
  | .abortAtE4 a v => decide (¬ isCommand 0x2AAA 0x55#8 a v)
  | .chipErase a v => decide (isCommand 0x5555 0x10#8 a v)
  | .sectorErase _ v => decide (v = 0x30#8)
  | .eraseNone a v => decide (¬ isCommand 0x5555 0x10#8 a v ∧ v ≠ 0x30#8)
  | .readId _ => true
  | .readStatus _ => true
  | .readArray _ => true
  | .flashForward h _ => decide (c.inLower h)
  | .bankShift h _ => decide (c.inUpper h)
  | .windowRead h => decide (c.inWindow h)

/-- The chip is not busy and stands at stage `st`: the context of a `CW` row (R62). -/
abbrev Context.idleAt (ctx : Context) (st : Stage) : Prop := ctx.busy = false ∧ ctx.stage = st

/-- The context in which the row is selected (the table's `context`; R62, R80). The bus formats have no
context but the address range, which `wellFormed` checks. -/
def Instr.inContext (ctx : Context) : Instr → Bool
  | .busyIgnore _ _ => decide (ctx.busy = true)
  | .unlock1 _ _ => decide (ctx.idleAt .wait0)
  | .idExitShort _ _ => decide (ctx.idleAt .wait0)
  | .ignoreAt0 _ _ => decide (ctx.idleAt .wait0)
  | .unlock2 _ _ => decide (ctx.idleAt .wait1)
  | .abortAt1 _ _ => decide (ctx.idleAt .wait1)
  | .eraseSetup _ _ => decide (ctx.idleAt .wait2)
  | .idEntry _ _ => decide (ctx.idleAt .wait2)
  | .programSetup _ _ => decide (ctx.idleAt .wait2)
  | .idExitLong _ _ => decide (ctx.idleAt .wait2)
  | .abortAt2Cmd _ _ => decide (ctx.idleAt .wait2)
  | .abortAt2Addr _ _ => decide (ctx.idleAt .wait2)
  | .program _ _ => decide (ctx.idleAt .write3)
  | .eraseUnlock1 _ _ => decide (ctx.idleAt .erase3)
  | .abortAtE3 _ _ => decide (ctx.idleAt .erase3)
  | .eraseUnlock2 _ _ => decide (ctx.idleAt .erase4)
  | .abortAtE4 _ _ => decide (ctx.idleAt .erase4)
  | .chipErase _ _ => decide (ctx.idleAt .erase5)
  | .sectorErase _ _ => decide (ctx.idleAt .erase5)
  | .eraseNone _ _ => decide (ctx.idleAt .erase5)
  | .readId _ => decide (ctx.softwareId = true)
  | .readStatus _ => decide (ctx.softwareId = false ∧ ctx.busy = true)
  | .readArray _ => decide (ctx.softwareId = false ∧ ctx.busy = false)
  | .flashForward _ _ => true
  | .bankShift _ _ => true
  | .windowRead _ => true

end Sys2Proof
end

