-- ==== Sys2Proof/Decode.lean ====
section
/-! DEFINITION. The decoder of 30_encoding.md R63, 40_bus_read.md R80 and 45_bank_mux.md R190, R194, the
encoder, the opcode table as data, and the decoder of a bare table word. -/

namespace Sys2Proof

/-- The rows of format `CW`, that is what `ChipWrite` selects among (R63). -/
inductive WriteRow where
  | busyIgnore | unlock1 | idExitShort | ignoreAt0 | unlock2 | abortAt1 | eraseSetup | idEntry | programSetup
  | idExitLong | abortAt2Cmd | abortAt2Addr | program | eraseUnlock1 | abortAtE3 | eraseUnlock2 | abortAtE4
  | chipErase | sectorErase | eraseNone
deriving DecidableEq, Repr

/-- The rows of format `CR`, that is what `ChipRead` selects among (R80). -/
inductive ReadRow where
  | readId | readStatus | readArray
deriving DecidableEq, Repr

/-- The instruction of a `CW` row with the cycle's operands. -/
def WriteRow.instr (r : WriteRow) (a : Nat) (v : Byte) : Instr :=
  match r with
  | .busyIgnore => .busyIgnore a v
  | .unlock1 => .unlock1 a v
  | .idExitShort => .idExitShort a v
  | .ignoreAt0 => .ignoreAt0 a v
  | .unlock2 => .unlock2 a v
  | .abortAt1 => .abortAt1 a v
  | .eraseSetup => .eraseSetup a v
  | .idEntry => .idEntry a v
  | .programSetup => .programSetup a v
  | .idExitLong => .idExitLong a v
  | .abortAt2Cmd => .abortAt2Cmd a v
  | .abortAt2Addr => .abortAt2Addr a v
  | .program => .program a v
  | .eraseUnlock1 => .eraseUnlock1 a v
  | .abortAtE3 => .abortAtE3 a v
  | .eraseUnlock2 => .eraseUnlock2 a v
  | .abortAtE4 => .abortAtE4 a v
  | .chipErase => .chipErase a v
  | .sectorErase => .sectorErase a v
  | .eraseNone => .eraseNone a v

/-- The instruction of a `CR` row with the cycle's operand. -/
def ReadRow.instr (r : ReadRow) (a : Nat) : Instr :=
  match r with
  | .readId => .readId a
  | .readStatus => .readStatus a
  | .readArray => .readArray a

/-- The write decoder (R63): which rule a chip write applies. -/
def selectWrite (ctx : Context) (a : Nat) (v : Byte) : WriteRow :=
  if ctx.busy then .busyIgnore
  else
    match ctx.stage with
    | .wait0 =>
      if cmdAddr a = 0x5555 ∧ v = 0xAA#8 then .unlock1
      else if v = 0xF0#8 then .idExitShort
      else .ignoreAt0
    | .wait1 =>
      if cmdAddr a = 0x2AAA ∧ v = 0x55#8 then .unlock2
      else .abortAt1
    | .wait2 =>
      if cmdAddr a ≠ 0x5555 then .abortAt2Addr
      else if v = 0x80#8 then .eraseSetup
      else if v = 0x90#8 then .idEntry
      else if v = 0xA0#8 then .programSetup
      else if v = 0xF0#8 then .idExitLong
      else .abortAt2Cmd
    | .write3 => .program
    | .erase3 =>
      if cmdAddr a = 0x5555 ∧ v = 0xAA#8 then .eraseUnlock1
      else .abortAtE3
    | .erase4 =>
      if cmdAddr a = 0x2AAA ∧ v = 0x55#8 then .eraseUnlock2
      else .abortAtE4
    | .erase5 =>
      if cmdAddr a = 0x5555 ∧ v = 0x10#8 then .chipErase
      else if v = 0x30#8 then .sectorErase
      else .eraseNone

/-- The read selection (R80): software-ID first, then busy, then the array. -/
def selectRead (ctx : Context) : ReadRow :=
  if ctx.softwareId then .readId
  else if ctx.busy then .readStatus
  else .readArray

/-- Why a cycle decodes to no instruction. -/
inductive DecodeReject where
  /-- The host address is outside the window: the block does not see the access (R43, R190). -/
  | outsideWindow
deriving DecidableEq, Repr

/-- The decoder, total on every cycle in every context. -/
def decode (cfg : Config) (ctx : Context) : Cycle → Except DecodeReject Instr
  | .cw a v => .ok ((selectWrite ctx a v).instr a v)
  | .cr a => .ok ((selectRead ctx).instr a)
  | .bw h v =>
    if cfg.inLower h then .ok (.flashForward h v)
    else if cfg.inUpper h then .ok (.bankShift h v)
    else .error .outsideWindow
  | .br h => if cfg.inWindow h then .ok (.windowRead h) else .error .outsideWindow

/-- The encoder: the bus cycle of an instruction (R60). Which row of its format a cycle is, is not in the
cycle but in the context that earlier writes left (R61, R62). -/
def encode : Instr → Cycle
  | .busyIgnore a v => .cw a v
  | .unlock1 a v => .cw a v
  | .idExitShort a v => .cw a v
  | .ignoreAt0 a v => .cw a v
  | .unlock2 a v => .cw a v
  | .abortAt1 a v => .cw a v
  | .eraseSetup a v => .cw a v
  | .idEntry a v => .cw a v
  | .programSetup a v => .cw a v
  | .idExitLong a v => .cw a v
  | .abortAt2Cmd a v => .cw a v
  | .abortAt2Addr a v => .cw a v
  | .program a v => .cw a v
  | .eraseUnlock1 a v => .cw a v
  | .abortAtE3 a v => .cw a v
  | .eraseUnlock2 a v => .cw a v
  | .abortAtE4 a v => .cw a v
  | .chipErase a v => .cw a v
  | .sectorErase a v => .cw a v
  | .eraseNone a v => .cw a v
  | .readId a => .cr a
  | .readStatus a => .cr a
  | .readArray a => .cr a
  | .flashForward h v => .bw h v
  | .bankShift h v => .bw h v
  | .windowRead h => .br h

/-! ### The compared word and the opcode table -/

/-- The compared word `K = (CA << 8) | D` of a `CW` cycle (R60): `K[22:8] = CA`, `K[7:0] = D`. -/
def compareWord (a : Nat) (v : Byte) : BitVec 23 := BitVec.ofNat 15 (cmdAddr a) ++ v

/-- The context column of a `CW` row: `none` is "busy, any (mode, cycle)", `some st` "stage st, not busy". -/
def tableContextHolds (ctx : Context) : Option Stage → Bool
  | none => ctx.busy
  | some st => !ctx.busy && decide (ctx.stage = st)

/-- One `CW` row of spec/opcode_table.json. -/
structure TableRow where
  row     : WriteRow
  context : Option Stage
  pattern : BitVec 23
  mask    : BitVec 23
deriving DecidableEq, Repr

/-- The row is selected by the word in the context: `(K & mask) = match` and its context holds (R60). -/
def TableRow.selects (r : TableRow) (ctx : Context) (k : BitVec 23) : Bool :=
  tableContextHolds ctx r.context && decide (k &&& r.mask = r.pattern)

/-- The `CW` rows in the table's order, which is their priority order inside each context (R60). -/
def opcodeTable : List TableRow :=
  [ ⟨.busyIgnore, none, 0x000000#23, 0x000000#23⟩,
    ⟨.unlock1, some .wait0, 0x5555AA#23, 0x7FFFFF#23⟩,
    ⟨.idExitShort, some .wait0, 0x0000F0#23, 0x0000FF#23⟩,
    ⟨.ignoreAt0, some .wait0, 0x000000#23, 0x000000#23⟩,
    ⟨.unlock2, some .wait1, 0x2AAA55#23, 0x7FFFFF#23⟩,
    ⟨.abortAt1, some .wait1, 0x000000#23, 0x000000#23⟩,
    ⟨.eraseSetup, some .wait2, 0x555580#23, 0x7FFFFF#23⟩,
    ⟨.idEntry, some .wait2, 0x555590#23, 0x7FFFFF#23⟩,
    ⟨.programSetup, some .wait2, 0x5555A0#23, 0x7FFFFF#23⟩,
    ⟨.idExitLong, some .wait2, 0x5555F0#23, 0x7FFFFF#23⟩ ] ++
  [ ⟨.abortAt2Cmd, some .wait2, 0x555500#23, 0x7FFF00#23⟩,
    ⟨.abortAt2Addr, some .wait2, 0x000000#23, 0x000000#23⟩,
    ⟨.program, some .write3, 0x000000#23, 0x000000#23⟩,
    ⟨.eraseUnlock1, some .erase3, 0x5555AA#23, 0x7FFFFF#23⟩,
    ⟨.abortAtE3, some .erase3, 0x000000#23, 0x000000#23⟩,
    ⟨.eraseUnlock2, some .erase4, 0x2AAA55#23, 0x7FFFFF#23⟩,
    ⟨.abortAtE4, some .erase4, 0x000000#23, 0x000000#23⟩,
    ⟨.chipErase, some .erase5, 0x555510#23, 0x7FFFFF#23⟩,
    ⟨.sectorErase, some .erase5, 0x000030#23, 0x0000FF#23⟩,
    ⟨.eraseNone, some .erase5, 0x000000#23, 0x000000#23⟩ ]

/-- The table's selection (R60): the first row, in table order, that the word and the context select. -/
def selectByTable (ctx : Context) (a : Nat) (v : Byte) : Option WriteRow :=
  (opcodeTable.find? fun r => r.selects ctx (compareWord a v)).map TableRow.row

/-! ### A bare table word -/

/-- The flat address `K[22:8]` of a bare table word. -/
def tableAddr (w : Nat) : Nat := (w >>> 8) &&& cmdAddrMask

/-- The data byte `K[7:0]` of a bare table word. -/
def tableData (w : Nat) : Byte := BitVec.ofNat 8 w

/-- The stage in which a bare table word is read. A word alone names no row (R61: the decoder tells the
row "only from the context"), so this picks, among the stages with a row whose fixed bits the word has, the
first in the table's order that fixes the most bits; a word with no such row is read at `wait0`
(DESIGN CHOICE, log 13). -/
def tableStage (a : Nat) (v : Byte) : Stage :=
  if cmdAddr a = 0x5555 ∧ v = 0xAA#8 then .wait0
  else if cmdAddr a = 0x2AAA ∧ v = 0x55#8 then .wait1
  else if cmdAddr a = 0x5555 ∧ v = 0x10#8 then .erase5
  else if cmdAddr a = 0x5555 then .wait2
  else if v = 0xF0#8 then .wait0
  else if v = 0x30#8 then .erase5
  else .wait0

/-- The context of a bare table word: not busy, not in software-ID mode, at `tableStage`. -/
def tableContext (a : Nat) (v : Byte) : Context := ⟨tableStage a v, false, false⟩

/-- The instruction the decoder reads from a bare table word of `nbits` bits: the chip write whose
compared word is `w`, in its table context (log 13). A word that needs more than the 23 bits of `K` is none. -/
def decodeTableWord (nbits w : Nat) : Option Instr :=
  let k := w % 2 ^ nbits
  if k < 2 ^ 23 then
    match decode Config.ex (tableContext (tableAddr k) (tableData k)) (.cw (tableAddr k) (tableData k)) with
    | .ok i => some i
    | .error _ => none
  else none

end Sys2Proof
end

