-- ==== Sys2Proof/Machine/State.lean ====
section
/-! DEFINITION. The state as plain data: the record of 10_state.md R20, the parameters and inputs of a step
(R31), the host operations still to come (R33), and what the last operation returned. -/

namespace Sys2Proof.Machine

/-- The backing memory (R28) as the list of its bytes that differ from `Memory.unlisted`, addresses
strictly rising. -/
abbrev Memory := List Host.Cell

/-- What a byte that is not listed reads as. The spec makes the power-on contents "the cartridge image, a
parameter of the launch" (R231); the model takes the erased byte (DESIGN CHOICE, log 8, unsafe for a claim
about an image that is not given). -/
def Memory.unlisted : Byte := 0xFF#8

/-- The canonical form: addresses strictly rising, and no entry equal to what an unlisted address reads as. -/
abbrev Memory.wf (m : Memory) : Prop :=
  m.Pairwise (fun x y => x.1 < y.1) ∧ ∀ c ∈ m, c.2 ≠ Memory.unlisted

/-- Every listed address is a byte of an array of `size` bytes (R28). -/
abbrev Memory.within (size : Nat) (m : Memory) : Prop := ∀ c ∈ m, c.1 < size

/-- What a chip read returns (R11). -/
inductive ChipResult where
  /-- `PRESENT(b)`. -/
  | present (b : Byte)
  /-- `ABSENT`: "no special value (pass-through to underlying memory)". -/
  | absent
deriving DecidableEq, Repr

/-- A snapshot (R34): the whole state of R20. `(mode, cycle)` is kept as two values, since a restore may be
given a pair that R23 does not allow, which it refuses. -/
structure Snapshot where
  mode           : Mode
  cycle          : Nat
  softwareId     : Bool
  busyUntilClock : Nat
  busyStatusByte : Byte
  image          : List Host.Cell
  bank           : Nat
deriving DecidableEq, Repr

/-- The operations of the block's interface (R33). `BusWrite`, `BusRead`, `ChipWrite` and `ChipRead` are
the bus cycles of R60. -/
inductive HostOp where
  | cycle (c : Cycle)
  | chipReset
  | hardReset
  | snapshot
  | restore (saved : Snapshot)
  | replaceMemory (image : List Host.Cell)
  | setDelays (enabled : Bool)
deriving DecidableEq, Repr

/-- One host operation with the global clock value `t` at which it happens (R31). -/
structure Access where
  t  : Nat
  op : HostOp
deriving DecidableEq, Repr

/-- What the last operation returned to its caller (log 4). -/
inductive Response where
  /-- The operation returned nothing. -/
  | nothing
  /-- A chip read returned this (R80). -/
  | chip (r : ChipResult)
  /-- A window read returned this byte (R194). -/
  | byte (b : Byte)
  /-- `Snapshot()` returned this (R34). -/
  | saved (s : Snapshot)
deriving DecidableEq, Repr

/-- The state. The first part is the record `S` of R20 (`stage` holds `mode` and `cycle`); then the
configuration and the host inputs that R20 and R31 call parameters of each step; then the model's own
fields (log 1 to 6). -/
structure State where
  /-- `s.mode` and `s.cycle` (R21, R22, R23). -/
  stage          : Stage
  /-- `s.softwareId` (R24). -/
  softwareId     : Bool
  /-- `s.busyUntilClock` (R25). -/
  busyUntilClock : Nat
  /-- `s.busyStatusByte` (R27). -/
  busyStatusByte : Byte
  /-- `mem` (R28). -/
  mem            : Memory
  /-- `s.bank` (R29): a value of `BANK_BITS` bits. -/
  bank           : Nat
  /-- The configuration (R6), constant for a session. -/
  cfg            : Config
  /-- `DELAYS_ENABLED`, a host input (R31). -/
  delaysEnabled  : Bool
  /-- The clock value `t` of the operation in progress, or of the last one (R31). -/
  clock          : Nat
  /-- The host operations still to come, the next one first (R30; log 2). -/
  script         : List Access
  /-- What the last operation returned (log 4). -/
  response       : Response
  /-- How many free values have been drawn (log 6). -/
  draws          : Nat
deriving DecidableEq, Repr

/-- `s.mode` (R21). -/
def State.mode (s : State) : Mode := s.stage.mode

/-- `s.cycle` (R22). -/
def State.cycle (s : State) : Nat := s.stage.cycle

/-- The reasons a step can fault: none. "There are no exceptions thrown from this core" (60_exceptions.md
R210), and "no access ever faults" (R211), so the type has no constructor and no step answers a fault;
safe. -/
inductive Fault where
deriving DecidableEq, Repr

/-- The reasons a step can be refused. -/
inductive Refusal where
  /-- Raised by the dispatch for an instruction that has no meaning yet (none now); safe. -/
  | notModelled (mnemonic : String)
  /-- Raised by `step` when the configuration is not well formed: "a model refuses a configuration that is
  not well formed" (00_scope.md R7); safe. -/
  | illFormedConfig
  /-- Raised by a restore whose `(mode, cycle)` pair R23 does not allow (10_state.md R34, U14); safe. -/
  | restoreBadPair
  /-- Raised by a restore whose bank is greater than `BANK_MASK` (10_state.md R34, U14); safe. -/
  | restoreBadBank
deriving DecidableEq, Repr

/-- The outcome of a meaning or a step. -/
abbrev Out := Host.Outcome State Fault Refusal

/-- The machine at power-on (R231, R32): the chip fields as `ChipReset` leaves them, the launch's
configuration, delay switch and cartridge image, and a bank (which R232 makes a draw). -/
def State.powerOn (cfg : Config) (delays : Bool) (image : Memory) (bank : Nat) : State :=
  { stage := .wait0, softwareId := false, busyUntilClock := 0, busyStatusByte := 0x00#8,
    mem := image, bank := bank, cfg := cfg, delaysEnabled := delays, clock := 0, script := [],
    response := .nothing, draws := 0 }

/-- The machine right after reset (R230 to R232): power-on with the example configuration, delays enabled
and nothing listed in memory (DESIGN CHOICE, log 1, 8, 19), and the bank the first free value in
`[0, BANK_MASK]`, as R232 says ("a model must not assume 0"; log 7). -/
def State.reset : State :=
  { State.powerOn Config.ex true [] (Config.freeBank 0 % 2 ^ Config.ex.bankBits) with draws := 1 }

end Sys2Proof.Machine
end

