-- ==== Sys2Proof/Machine/Operands.lean ====
section
/-! DEFINITION. Operand assembly: the derived parameters of 00_scope.md R6 and the masked copies of cycle
fields of 30_encoding.md R64. -/

namespace Sys2Proof.Machine

/-- `PAGE_MASK = 2^PAGE_SHIFT - 1` (R6). -/
def pageMask (c : Config) : Nat := 2 ^ c.pageShift - 1

/-- `BANK_MASK = 2^BANK_BITS - 1` (R6). -/
def bankMask (c : Config) : Nat := 2 ^ c.bankBits - 1

/-- `TOP_BIT = BANK_BITS - 1` (R6). -/
def topBit (c : Config) : Nat := c.bankBits - 1

/-- `ID_ADDR_MASK` (R6). -/
def idAddrMask : Nat := 0x1FF

/-- `ID_FILL` (R6, R81). -/
def idFill : Byte := 0xFF#8

/-- `SECTOR_SIZE` (R6). -/
def sectorSize : Nat := 0x1000

/-- The byte an erase writes (R153, R154). -/
def erasedByte : Byte := 0xFF#8

/-- The software-ID index `A & ID_ADDR_MASK` (R64, R81). -/
def idIndex (a : Nat) : Nat := a &&& idAddrMask

/-- The software-ID byte at flat address `a` (R81). -/
def idByte (c : Config) (a : Nat) : Byte :=
  if idIndex a = 0 then c.manufacturerId
  else if idIndex a = 1 then c.deviceId
  else idFill

/-- The sector offset `A & SECTOR_MASK` (R64, R154). -/
def sectorOffset (c : Config) (a : Nat) : Nat := a &&& c.sectorMask

/-- The program address is a byte of the array (R130). -/
abbrev programInBounds (c : Config) (a : Nat) : Prop := a < c.flashSize

/-- The whole sector lies in the array (R154). -/
abbrev sectorInBounds (c : Config) (a : Nat) : Prop := sectorOffset c a + sectorSize ≤ c.flashSize

/-- The bank shift bit `v[SHIFT_DATA_BIT]` (R64, R192), as 0 or 1. -/
def shiftBit (c : Config) (v : Byte) : Nat := (v.toNat >>> c.shiftDataBit) &&& 1

/-- The bank after one shift (R192). -/
def shiftedBank (c : Config) (bank b : Nat) : Nat := ((bank >>> 1) ||| (b <<< topBit c)) &&& bankMask c

/-- The local address of a host address in the window (R43). -/
def localAddr (c : Config) (h : Nat) : Nat := h - c.windowBase

/-- The flat address of a window access (R44). -/
def flatAddr (c : Config) (bank loc : Nat) : Nat := (loc &&& pageMask c) ||| (bank <<< c.pageShift)

/-- The flat address of a window access at host address `h` (R44, R45). -/
def State.flatOf (s : State) (h : Nat) : Nat := flatAddr s.cfg s.bank (localAddr s.cfg h)

/-- The busy window's length in clock ticks (R170): multiply, then divide rounding down. -/
def busyTicks (c : Config) (delayUs : Nat) : Nat := (c.clockRate * delayUs) / 1000000

/-- The legal stage of a `(mode, cycle)` pair, if R23 allows the pair. -/
def stageOfPair : Mode → Nat → Option Stage
  | .waitingForCommand, 0 => some .wait0
  | .waitingForCommand, 1 => some .wait1
  | .waitingForCommand, 2 => some .wait2
  | .write, 3 => some .write3
  | .erase, 3 => some .erase3
  | .erase, 4 => some .erase4
  | .erase, 5 => some .erase5
  | _, _ => none

end Sys2Proof.Machine
end

