-- ==== Sys2Proof/Machine/Flags.lean ====
section
/-! DEFINITION. The status byte of 10_state.md R27: its data# bit, its toggle bit and its value at a busy
start (44_busy_window.md R172). -/

namespace Sys2Proof.Machine

/-- The data# bit of a program of `v`: `(~v)[7]`, the complement of bit 7 of the written value (R130, R172). -/
def programDataBit (v : Byte) : Bool := (~~~v).getLsbD 7

/-- The data# bit of an erase: 0 (R153, R154, R172). -/
def eraseDataBit : Bool := false

/-- The status byte at a busy start, `d << DATA_POLL_BIT`: every other bit is 0 (R170, R172). -/
def startStatus (c : Config) (d : Bool) : Byte := if d then 1#8 <<< c.dataPollBit else 0#8

/-- The status byte after a busy read: `TOGGLE_BIT` flipped (R82). -/
def toggledStatus (c : Config) (b : Byte) : Byte := b ^^^ (1#8 <<< c.toggleBit)

end Sys2Proof.Machine
end

