-- ==== Sys2Proof/Machine/Ops.lean ====
section
/-! DEFINITION. The named operations: memory, the state's fields, AbortCommand, StartBusy, the resets,
snapshot and restore. The block takes no exception and returns from none (60_exceptions.md R210, R214), so
there is no exception entry here; the return to the idle protocol state is `abortCommand` (R100). -/

namespace Sys2Proof.Machine

/-! ### The backing memory -/

/-- `MemRead(a, 1)` (R10): the byte at `a`. -/
def Memory.read : Memory → Nat → Byte
  | [], _ => Memory.unlisted
  | c :: m, a => if c.1 = a then c.2 else Memory.read m a

/-- Put the cell `(a, v)` in front, unless it says what an unlisted address reads as. -/
def Memory.cons (a : Nat) (v : Byte) (m : Memory) : Memory := if v = Memory.unlisted then m else (a, v) :: m

/-- `MemWrite(a, 1, v)` (R10), keeping the canonical form. -/
def Memory.write : Memory → Nat → Byte → Memory
  | [], a, v => Memory.cons a v []
  | c :: m, a, v =>
    if a < c.1 then Memory.cons a v (c :: m)
    else if a = c.1 then Memory.cons a v m
    else c :: Memory.write m a v

/-- `for i in lo .. lo + n - 1: MemWrite(i, 1, v)`, the loop of R153 and R154. -/
def Memory.fillLoop (m : Memory) (lo : Nat) (v : Byte) : Nat → Memory
  | 0 => m
  | n + 1 => (Memory.fillLoop m lo v n).write (lo + n) v

/-- The same loop writing the erased byte, in one pass: the listed cells of the range go
(`Memory.eraseRange_eq_fillLoop` proves the two equal). -/
def Memory.eraseRange (m : Memory) (lo n : Nat) : Memory :=
  m.filter fun c => !(decide (lo ≤ c.1) && decide (c.1 < lo + n))

/-- The array of `size` bytes that a list of cells gives, in canonical form. The first cell of an address
counts, and a cell outside the array is no byte of it (log 9). -/
def Memory.ofCells (size : Nat) : List Host.Cell → Memory
  | [] => []
  | c :: cells =>
    if c.1 < size then (Memory.ofCells size cells).write c.1 c.2 else Memory.ofCells size cells

/-! ### The state's fields -/

def State.setStage (s : State) (st : Stage) : State := { s with stage := st }
def State.setSoftwareId (s : State) (b : Bool) : State := { s with softwareId := b }
def State.setBusy (s : State) (until_ : Nat) (status : Byte) : State :=
  { s with busyUntilClock := until_, busyStatusByte := status }
def State.setStatus (s : State) (status : Byte) : State := { s with busyStatusByte := status }
def State.setMem (s : State) (m : Memory) : State := { s with mem := m }
def State.setBank (s : State) (b : Nat) : State := { s with bank := b }
def State.setDelays (s : State) (b : Bool) : State := { s with delaysEnabled := b }
def State.respond (s : State) (r : Response) : State := { s with response := r }
def State.countDraw (s : State) : State := { s with draws := s.draws + 1 }

/-- Begin the operation at clock `t`: the clock input is `t`, `rest` is what is still to come, and nothing
has been returned yet. -/
def State.begin (s : State) (t : Nat) (rest : List Access) : State :=
  { s with clock := t, script := rest, response := .nothing }

/-- `busy(s, t) := t < s.busyUntilClock` (R26), at the clock of the operation in progress. -/
def State.busy (s : State) : Bool := decide (s.clock < s.busyUntilClock)

/-- The decode context of the operation in progress (R62). -/
def State.context (s : State) : Context := ⟨s.stage, s.busy, s.softwareId⟩

/-! ### Shared operations -/

/-- AbortCommand (R100): mode and cycle only. -/
def State.abortCommand (s : State) : State := s.setStage .wait0

/-- StartBusy (R170): nothing when delays are disabled (R171); else the deadline and the status byte. -/
def State.startBusy (s : State) (delayUs : Nat) (d : Bool) : State :=
  if s.delaysEnabled then s.setBusy (s.clock + busyTicks s.cfg delayUs) (startStatus s.cfg d) else s

/-- `draw([0, 255])`: the next free byte (R10, R46; log 6). -/
def State.drawnByte (s : State) : Byte := Config.freeByte s.draws

/-- `draw([0, BANK_MASK])`: the next free bank (R10, R232; log 6). -/
def State.drawnBank (s : State) : Nat := Config.freeBank s.draws % 2 ^ s.cfg.bankBits

/-- `ChipReset()` (R230): the five chip fields. -/
def State.chipReset (s : State) : State :=
  { s with stage := .wait0, softwareId := false, busyUntilClock := 0, busyStatusByte := 0x00#8 }

/-- `HardReset()` (R232): `ChipReset()` and a fresh bank draw. -/
def State.hardReset (s : State) : State := (s.chipReset.setBank s.drawnBank).countDraw

/-- `Snapshot()` (R34): the whole state of R20, verbatim. -/
def State.snapshot (s : State) : Snapshot :=
  { mode := s.mode, cycle := s.cycle, softwareId := s.softwareId, busyUntilClock := s.busyUntilClock,
    busyStatusByte := s.busyStatusByte, image := s.mem, bank := s.bank }

/-- `ReplaceMemory(image)` (R35): `mem` only. -/
def State.replaceMemory (s : State) (image : List Host.Cell) : State :=
  s.setMem (Memory.ofCells s.cfg.flashSize image)

/-- `Restore(S)` (R34): every field of R20 takes the snapshot's value; refused when the `(mode, cycle)` pair
is not one of R23 or the bank is greater than `BANK_MASK`. -/
def State.restore (s : State) (saved : Snapshot) : Out :=
  match stageOfPair saved.mode saved.cycle with
  | none => .refused .restoreBadPair
  | some st =>
    if saved.bank ≤ bankMask s.cfg then
      .next { s with
        stage := st, softwareId := saved.softwareId, busyUntilClock := saved.busyUntilClock,
        busyStatusByte := saved.busyStatusByte, mem := Memory.ofCells s.cfg.flashSize saved.image,
        bank := saved.bank }
    else .refused .restoreBadBank

end Sys2Proof.Machine
end

