-- ==== Sys2Proof/Machine/ByteProgram.lean ====
section
/-! DEFINITION. The data cycle of Byte-Program: PROGRAM of 42_program.md (R130, R131). -/

namespace Sys2Proof.Machine

/-- The memory change of PROGRAM: `mem[a] & v` in bounds, nothing out of bounds (R130, R131). -/
def State.programByte (s : State) (a : Nat) (v : Byte) : State :=
  if programInBounds s.cfg a then s.setMem (s.mem.write a (s.mem.read a &&& v)) else s

/-- PROGRAM (R130): the memory change; then StartBusy, in bounds or where `OOB_STARTS_BUSY` says so (R131,
D15); then AbortCommand. -/
def execProgram (a : Nat) (v : Byte) (s : State) : Out :=
  if programInBounds s.cfg a ∨ s.cfg.oobStartsBusy then
    .next ((s.programByte a v).startBusy s.cfg.programDelayUs (programDataBit v)).abortCommand
  else .next (s.programByte a v).abortCommand

end Sys2Proof.Machine
end

