-- ==== Sys2Proof/Machine/ChipRead.lean ====
section
/-! DEFINITION. The chip read of 40_bus_read.md: READ_ID (R81), READ_STATUS (R82), READ_ARRAY (R83), and
`ChipRead` (R80). -/

namespace Sys2Proof.Machine

/-- READ_ID (R81): the ID pattern; no state is written. -/
def readIdResult (s : State) (a : Nat) : ChipResult := .present (idByte s.cfg a)

/-- READ_STATUS (R82): the toggle bit flips, then the status byte is returned. -/
def readStatusState (s : State) : State := s.setStatus (toggledStatus s.cfg s.busyStatusByte)

/-- The result of READ_STATUS: the status byte after the flip (R82). -/
def readStatusResult (s : State) : ChipResult := .present (readStatusState s).busyStatusByte

/-- READ_ARRAY (R83): `ABSENT`, whatever the address is. -/
def readArrayResult : ChipResult := .absent

/-- The result of `ChipRead(t, a)` (R80). -/
def chipReadResult (s : State) (a : Nat) : ChipResult :=
  match selectRead s.context with
  | .readId => readIdResult s a
  | .readStatus => readStatusResult s
  | .readArray => readArrayResult

/-- The state after `ChipRead(t, a)` (R80). -/
def chipReadState (s : State) : State :=
  match selectRead s.context with
  | .readId => s
  | .readStatus => readStatusState s
  | .readArray => s

/-- READ_ID as an instruction (R81). -/
def execReadId (a : Nat) (s : State) : Out := .next (s.respond (.chip (readIdResult s a)))

/-- READ_STATUS as an instruction (R82). -/
def execReadStatus (s : State) : Out := .next ((readStatusState s).respond (.chip (readStatusResult s)))

/-- READ_ARRAY as an instruction (R83). -/
def execReadArray (s : State) : Out := .next (s.respond (.chip readArrayResult))

end Sys2Proof.Machine
end

