-- ==== Sys2Proof/Machine/Command.lean ====
section
/-! DEFINITION. The unlock sequence, the command dispatch and software-ID mode: the rows of
41_command_sequence.md, and BUSY_IGNORE of 44_busy_window.md R174. -/

namespace Sys2Proof.Machine

/-- BUSY_IGNORE (R174): a chip write while busy has no effect on any state. -/
def execBusyIgnore (s : State) : Out := .next s

/-- UNLOCK1 (R101): `s.cycle <- 1`, the mode stays `WaitingForCommand`. -/
def execUnlock1 (s : State) : Out := .next (s.setStage .wait1)

/-- ID_EXIT_SHORT (R102): `s.softwareId <- 0`, then AbortCommand. -/
def execIdExitShort (s : State) : Out := .next (s.setSoftwareId false).abortCommand

/-- IGNORE_AT_0 (R103): no operation. -/
def execIgnoreAt0 (s : State) : Out := .next s

/-- UNLOCK2 (R104): `s.cycle <- 2`, the mode stays `WaitingForCommand`. -/
def execUnlock2 (s : State) : Out := .next (s.setStage .wait2)

/-- ABORT_AT_1 (R105): AbortCommand. -/
def execAbortAt1 (s : State) : Out := .next s.abortCommand

/-- ERASE_SETUP (R107): `s.mode <- Erase`, `s.cycle <- 3`. -/
def execEraseSetup (s : State) : Out := .next (s.setStage .erase3)

/-- ID_ENTRY (R108): `s.softwareId <- 1`, then AbortCommand. -/
def execIdEntry (s : State) : Out := .next (s.setSoftwareId true).abortCommand

/-- PROGRAM_SETUP (R109): `s.mode <- Write`, `s.cycle <- 3`. -/
def execProgramSetup (s : State) : Out := .next (s.setStage .write3)

/-- ID_EXIT_LONG (R110): `s.softwareId <- 0`, then AbortCommand. -/
def execIdExitLong (s : State) : Out := .next (s.setSoftwareId false).abortCommand

/-- ABORT_AT_2_CMD (R111): AbortCommand, at once (D17). -/
def execAbortAt2Cmd (s : State) : Out := .next s.abortCommand

/-- ABORT_AT_2_ADDR (R106): AbortCommand. -/
def execAbortAt2Addr (s : State) : Out := .next s.abortCommand

end Sys2Proof.Machine
end

