-- ==== Sys2Proof/Machine/Erase.lean ====
section
/-! DEFINITION. The second unlock, chip erase and sector erase: the rows of 43_erase.md. -/

namespace Sys2Proof.Machine

/-- ERASE_UNLOCK1 (R150): `s.cycle <- 4`, the mode stays `Erase`. -/
def execEraseUnlock1 (s : State) : Out := .next (s.setStage .erase4)

/-- ABORT_AT_E3 (R152): AbortCommand. -/
def execAbortAtE3 (s : State) : Out := .next s.abortCommand

/-- ERASE_UNLOCK2 (R151): `s.cycle <- 5`, the mode stays `Erase`. -/
def execEraseUnlock2 (s : State) : Out := .next (s.setStage .erase5)

/-- ABORT_AT_E4 (R152): AbortCommand. -/
def execAbortAtE4 (s : State) : Out := .next s.abortCommand

/-- The memory change of CHIP_ERASE: every byte of the array is 0xFF (R153). -/
def State.eraseChip (s : State) : State := s.setMem (s.mem.eraseRange 0 s.cfg.flashSize)

/-- CHIP_ERASE (R153): the fill, StartBusy with data# bit 0, AbortCommand. -/
def execChipErase (s : State) : Out :=
  .next (s.eraseChip.startBusy s.cfg.chipEraseDelayUs eraseDataBit).abortCommand

/-- The memory change of SECTOR_ERASE: the aligned sector's bytes are 0xFF, when the whole sector is in the
array; else none (R154, R155). -/
def State.eraseSector (s : State) (a : Nat) : State :=
  if sectorInBounds s.cfg a then s.setMem (s.mem.eraseRange (sectorOffset s.cfg a) sectorSize) else s

/-- SECTOR_ERASE (R154): the fill; StartBusy, in bounds or where `OOB_STARTS_BUSY` says so (R155, D15);
AbortCommand. -/
def execSectorErase (a : Nat) (s : State) : Out :=
  if sectorInBounds s.cfg a ∨ s.cfg.oobStartsBusy then
    .next ((s.eraseSector a).startBusy s.cfg.sectorEraseDelayUs eraseDataBit).abortCommand
  else .next (s.eraseSector a).abortCommand

/-- ERASE_NONE (R156): AbortCommand, with no erase and no busy window. -/
def execEraseNone (s : State) : Out := .next s.abortCommand

end Sys2Proof.Machine
end

