-- ==== Sys2Proof/Machine/BankMux.lean ====
section
/-! DEFINITION. The bank-switching address multiplexer and register decoder: the rows of 45_bank_mux.md, and
`ChipWrite` of 30_encoding.md R63, which FLASH_FORWARD calls. -/

namespace Sys2Proof.Machine

/-- `ChipWrite(t, a, v)` (R63) at the clock of the operation in progress: the one rule the decoder selects.
`exec_selected` proves that it is what `exec` does with the selected instruction. -/
def chipWrite (a : Nat) (v : Byte) (s : State) : Out :=
  match selectWrite s.context a v with
  | .busyIgnore => execBusyIgnore s
  | .unlock1 => execUnlock1 s
  | .idExitShort => execIdExitShort s
  | .ignoreAt0 => execIgnoreAt0 s
  | .unlock2 => execUnlock2 s
  | .abortAt1 => execAbortAt1 s
  | .eraseSetup => execEraseSetup s
  | .idEntry => execIdEntry s
  | .programSetup => execProgramSetup s
  | .idExitLong => execIdExitLong s
  | .abortAt2Cmd => execAbortAt2Cmd s
  | .abortAt2Addr => execAbortAt2Addr s
  | .program => execProgram a v s
  | .eraseUnlock1 => execEraseUnlock1 s
  | .abortAtE3 => execAbortAtE3 s
  | .eraseUnlock2 => execEraseUnlock2 s
  | .abortAtE4 => execAbortAtE4 s
  | .chipErase => execChipErase s
  | .sectorErase => execSectorErase a s
  | .eraseNone => execEraseNone s

/-- FLASH_FORWARD (R191): a chip write at the flat address. -/
def execFlashForward (h : Nat) (v : Byte) (s : State) : Out := chipWrite (s.flatOf h) v s

/-- BANK_SHIFT (R192): one bit of the written byte is shifted in at the top. -/
def execBankShift (v : Byte) (s : State) : Out := .next (s.setBank (shiftedBank s.cfg s.bank (shiftBit s.cfg v)))

/-- WINDOW_READ (R194): the chip is consulted at the flat address; `ABSENT` falls through to the array, and
beyond the array the byte is a draw (R46). -/
def execWindowRead (h : Nat) (s : State) : Out :=
  match chipReadResult s (s.flatOf h) with
  | .present b => .next ((chipReadState s).respond (.byte b))
  | .absent =>
    if s.flatOf h < s.cfg.flashSize then
      .next ((chipReadState s).respond (.byte (s.mem.read (s.flatOf h))))
    else .next ((chipReadState s).countDraw.respond (.byte s.drawnByte))

end Sys2Proof.Machine
end

