-- ==== Sys2Proof/Machine/Dispatch.lean ====
section
/-! DEFINITION. The dispatch: one arm per constructor of Instr, each one call of the instruction's meaning. -/

namespace Sys2Proof.Machine

def exec (i : Instr) (s : State) : Host.Outcome State Fault Refusal :=
  match i with
  | .busyIgnore _ _ => Sys2Proof.Machine.execBusyIgnore s
  | .unlock1 _ _ => Sys2Proof.Machine.execUnlock1 s
  | .idExitShort _ _ => Sys2Proof.Machine.execIdExitShort s
  | .ignoreAt0 _ _ => Sys2Proof.Machine.execIgnoreAt0 s
  | .unlock2 _ _ => Sys2Proof.Machine.execUnlock2 s
  | .abortAt1 _ _ => Sys2Proof.Machine.execAbortAt1 s
  | .eraseSetup _ _ => Sys2Proof.Machine.execEraseSetup s
  | .idEntry _ _ => Sys2Proof.Machine.execIdEntry s
  | .programSetup _ _ => Sys2Proof.Machine.execProgramSetup s
  | .idExitLong _ _ => Sys2Proof.Machine.execIdExitLong s
  | .abortAt2Cmd _ _ => Sys2Proof.Machine.execAbortAt2Cmd s
  | .abortAt2Addr _ _ => Sys2Proof.Machine.execAbortAt2Addr s
  | .program a v => Sys2Proof.Machine.execProgram a v s
  | .eraseUnlock1 _ _ => Sys2Proof.Machine.execEraseUnlock1 s
  | .abortAtE3 _ _ => Sys2Proof.Machine.execAbortAtE3 s
  | .eraseUnlock2 _ _ => Sys2Proof.Machine.execEraseUnlock2 s
  | .abortAtE4 _ _ => Sys2Proof.Machine.execAbortAtE4 s
  | .chipErase _ _ => Sys2Proof.Machine.execChipErase s
  | .sectorErase a _ => Sys2Proof.Machine.execSectorErase a s
  | .eraseNone _ _ => Sys2Proof.Machine.execEraseNone s
  | .readId a => Sys2Proof.Machine.execReadId a s
  | .readStatus _ => Sys2Proof.Machine.execReadStatus s
  | .readArray _ => Sys2Proof.Machine.execReadArray s
  | .flashForward h v => Sys2Proof.Machine.execFlashForward h v s
  | .bankShift _ v => Sys2Proof.Machine.execBankShift v s
  | .windowRead h => Sys2Proof.Machine.execWindowRead h s

end Sys2Proof.Machine
end

