-- ==== Sys2Proof/Machine/Perform.lean ====
section
/-! DEFINITION. One host operation of the interface of 10_state.md R33, performed in a state that has begun
it (its clock value is the state's `clock`). -/

namespace Sys2Proof.Machine

/-- A bus cycle: the decoded instruction; an access outside the window is not seen by the block and changes
no state of it (R43, R190; log 12). -/
def performCycle (c : Cycle) (s : State) : Out :=
  match decode s.cfg s.context c with
  | .ok i => exec i s
  | .error .outsideWindow => .next s

/-- An operation of R33. -/
def perform (op : HostOp) (s : State) : Out :=
  match op with
  | .cycle c => performCycle c s
  | .chipReset => .next s.chipReset
  | .hardReset => .next s.hardReset
  | .snapshot => .next (s.respond (.saved s.snapshot))
  | .restore saved => s.restore saved
  | .replaceMemory image => .next (s.replaceMemory image)
  | .setDelays b => .next (s.setDelays b)

/-- The next operation of the script at its clock value. With no operation to come nothing happens, since
the block has no step of its own (R5; log 2). -/
def performNext (s : State) : Out :=
  match s.script with
  | [] => .next s
  | acc :: rest => perform acc.op (s.begin acc.t rest)

/-- R7: a configuration that is not well formed is refused; else the next operation is performed. -/
def checkedPerform (s : State) : Out :=
  if s.cfg.wf then performNext s else .refused .illFormedConfig

/-- The state in which the chip write of the bare table word `w` (of `nbits` bits) is the next operation, in
the context in which `decodeTableWord` reads it: the stage is the word's, software-ID mode is off, and the
access stands first in the script at a clock value at which the chip is not busy (log 14). -/
def placeTableWord (s : State) (nbits w : Nat) : State :=
  let k := w % 2 ^ nbits
  { s with
    stage := tableStage (tableAddr k) (tableData k),
    softwareId := false,
    script := ⟨max s.clock s.busyUntilClock, .cycle (.cw (tableAddr k) (tableData k))⟩ :: s.script }

end Sys2Proof.Machine
end

