-- ==== Sys2Proof/Machine/Step.lean ====
section
/-! DEFINITION. The step: one host operation (20_memory.md R49), and the placing of a bare table word. -/

namespace Sys2Proof.Machine

/-- One step: the next host operation, completely (R49). -/
def step (s : State) : Host.Outcome State Fault Refusal := checkedPerform s

/-- The state whose very next step runs the bare table word `w` (log 14). -/
def State.withFetchWord (s : State) (nbits w : Nat) : State := placeTableWord s nbits w

end Sys2Proof.Machine
end

