-- ==== Sys2Proof/Machine/Script.lean ====
section
/-! DEFINITION. The bus-script lines and pseudo-operations of 30_encoding.md R68, as functions that build
scripts. The lines of a pseudo-operation have consecutive clock values. -/

namespace Sys2Proof.Machine

/-- `@t W h, v`. -/
def lineW (t h : Nat) (v : Byte) : Access := ⟨t, .cycle (.bw h v)⟩
/-- `@t R h`. -/
def lineR (t h : Nat) : Access := ⟨t, .cycle (.br h)⟩
/-- `@t CW a, v`. -/
def lineCW (t a : Nat) (v : Byte) : Access := ⟨t, .cycle (.cw a v)⟩
/-- `@t CR a`. -/
def lineCR (t a : Nat) : Access := ⟨t, .cycle (.cr a)⟩
/-- `@t RESET`. -/
def lineReset (t : Nat) : Access := ⟨t, .chipReset⟩

/-- `UNLOCK`. -/
def scriptUnlock (t : Nat) : List Access := [lineCW t 0x5555 0xAA#8, lineCW (t + 1) 0x2AAA 0x55#8]
/-- `PROGRAM a, d`. -/
def scriptProgram (t a : Nat) (d : Byte) : List Access :=
  scriptUnlock t ++ [lineCW (t + 2) 0x5555 0xA0#8, lineCW (t + 3) a d]
/-- The five writes before an erase command byte. -/
def scriptEraseUnlock (t : Nat) : List Access :=
  scriptUnlock t ++ [lineCW (t + 2) 0x5555 0x80#8] ++ scriptUnlock (t + 3)
/-- `SECTOR_ERASE a`. -/
def scriptSectorErase (t a : Nat) : List Access := scriptEraseUnlock t ++ [lineCW (t + 5) a 0x30#8]
/-- `CHIP_ERASE`. -/
def scriptChipErase (t : Nat) : List Access := scriptEraseUnlock t ++ [lineCW (t + 5) 0x5555 0x10#8]
/-- `ID_ENTRY`. -/
def scriptIdEntry (t : Nat) : List Access := scriptUnlock t ++ [lineCW (t + 2) 0x5555 0x90#8]
/-- `ID_EXIT`. -/
def scriptIdExit (t : Nat) : List Access := [lineCW t 0x0000 0xF0#8]

/-- The byte that shifts in bit `b`: `SHIFT_DATA_BIT` is `b`, all other bits are 0. -/
def shiftByte (c : Config) (b : Bool) : Byte := if b then 1#8 <<< c.shiftDataBit else 0#8

/-- `SETBANK n`: `BANK_BITS` writes at `WINDOW_BASE + SPLIT`, bit 0 of `n` first (R193). -/
def scriptSetBank (c : Config) (t n : Nat) : List Access :=
  (List.range c.bankBits).map fun i => lineW (t + i) (c.windowBase + c.split) (shiftByte c (n.testBit i))

end Sys2Proof.Machine
end

