-- ==== Sys2Proof/Safety.lean ====
section
/-! DEFINITION. The invariants that claims use. -/

namespace Sys2Proof.Machine

/-- The structural invariant: the configuration is well formed (R7), memory has its canonical form and lists
bytes of the array only (R28), and the bank has `BANK_BITS` bits (R29). -/
structure Inv (s : State) : Prop where
  cfgWf     : s.cfg.wf
  memWf     : s.mem.wf
  memWithin : s.mem.within s.cfg.flashSize
  bankFits  : s.bank ≤ bankMask s.cfg

/-- The operation is no restore. -/
def HostOp.noRestore : HostOp → Bool
  | .restore _ => false
  | _ => true

/-- The clock values from `t` on never decrease (R36) and no operation is a restore. -/
def quietScript (t : Nat) : List Access → Bool
  | [] => true
  | acc :: rest => decide (t ≤ acc.t) && acc.op.noRestore && quietScript acc.t rest

/-- The invariant of R37 with its premises: while the chip is busy no command is in progress; the host's
clock never decreases (R36) and the host restores no snapshot. -/
structure BusyIsIdle (s : State) : Prop where
  idle  : s.busy = true → s.mode = .waitingForCommand ∧ s.cycle = 0
  quiet : quietScript s.clock s.script = true

/-- The chip is not busy and stands at stage `st`: the context of a `CW` row (R62). -/
abbrev State.idleAt (s : State) (st : Stage) : Prop := s.busy = false ∧ s.stage = st

/-- The decoder reads the cycle `c` as the instruction `i` in the state `s`. -/
abbrev State.decodesTo (s : State) (c : Cycle) (i : Instr) : Prop := decode s.cfg s.context c = .ok i

/-- The chip write, if any, that a host operation makes (R33, R190, R191): a chip write cycle itself, or a host
write in the lower portion of the window at its flat address. -/
def chipWriteOf (c : Config) (bank : Nat) : HostOp → Option (Nat × Byte)
  | .cycle (.cw a v) => some (a, v)
  | .cycle (.bw h v) => if c.inLower h then some (flatAddr c bank (localAddr c h), v) else none
  | _ => none

/-- The chip write `a = v` that the state's next operation makes, which begins at clock `t`, when the chip is
not busy then (so that the write is decoded and not ignored, R63, R174). -/
def acceptedWrite (s : State) (t : Nat) (op : HostOp) (a : Nat) (v : Byte) : Prop :=
  chipWriteOf s.cfg s.bank op = some (a, v) ∧ s.busyUntilClock ≤ t

/-- The state after `n` steps, if none of them is refused. -/
def steps : Nat → State → Out
  | 0, s => .next s
  | n + 1, s =>
    match step s with
    | .next t => steps n t
    | .fault r => .fault r
    | .refused r => .refused r

end Sys2Proof.Machine
end

