-- ==== Sys2Proof/Certificates/Slice0/Obligations.lean ====
section
/-! DEFINITION. The statements for the provers. Each docstring names the rule of spec/ it formalises; where a
statement rests on a choice of the model, it names the log entry. -/

open Sys2Proof Sys2Proof.Machine

/-! ### Encoding and decoding -/

/-- A few compared words written out from R60 and the table, and the rows they select. -/
def Obligations.SpecWordsDecodeToTheirRows : Prop :=
  (compareWord 0x5555 0xAA#8 = 0x5555AA#23 ∧ compareWord 0x2AAA 0x55#8 = 0x2AAA55#23 ∧
    compareWord 0x7D555 0xAA#8 = 0x5555AA#23 ∧ compareWord 0x54123 0x5A#8 = 0x41235A#23) ∧
  decode Config.ex ⟨.wait0, false, false⟩ (.cw 0x7D555 0xAA#8) = .ok (.unlock1 0x7D555 0xAA#8) ∧
  decode Config.ex ⟨.wait0, false, true⟩ (.cw 0x1234 0xF0#8) = .ok (.idExitShort 0x1234 0xF0#8) ∧
  decode Config.ex ⟨.wait1, false, false⟩ (.cw 0x5555 0xAA#8) = .ok (.abortAt1 0x5555 0xAA#8) ∧
  decode Config.ex ⟨.wait2, false, false⟩ (.cw 0xD555 0xA0#8) = .ok (.programSetup 0xD555 0xA0#8) ∧
  decode Config.ex ⟨.erase5, false, false⟩ (.cw 0x1234 0x10#8) = .ok (.eraseNone 0x1234 0x10#8) ∧
  decode Config.ex ⟨.erase5, true, false⟩ (.cw 0x5555 0x10#8) = .ok (.busyIgnore 0x5555 0x10#8) ∧
  decode Config.ex ⟨.wait0, true, true⟩ (.cr 0x12401) = .ok (.readId 0x12401) ∧
  decode Config.ex ⟨.wait0, false, false⟩ (.bw 0xBFFF 0x00#8) = .ok (.flashForward 0xBFFF 0x00#8) ∧
  decode Config.ex ⟨.wait0, false, false⟩ (.bw 0xC000 0x01#8) = .ok (.bankShift 0xC000 0x01#8) ∧
  decode Config.ex ⟨.wait0, false, false⟩ (.bw 0x7FFF 0xAA#8) = .error .outsideWindow ∧
  decode Config.ex ⟨.wait0, false, false⟩ (.br 0xFFFF) = .ok (.windowRead 0xFFFF)

/-- Decoding the cycle of a well-formed instruction, in its context, gives the instruction back with every
operand at every value (R60 to R63, R80, R190, R194). -/
def Obligations.DecodeInvertsEncode : Prop :=
  ∀ (cfg : Config) (ctx : Context) (i : Instr),
    i.wellFormed cfg = true → i.inContext ctx = true → decode cfg ctx (encode i) = .ok i

/-- The decoder loses nothing and selects nothing it should not: what it gives encodes to the same cycle, is
well formed and stands in its context; and it gives nothing exactly for a host access outside the window
(R43, R60, R63, R190). -/
def Obligations.EncodeInvertsDecode : Prop :=
  ∀ (cfg : Config) (ctx : Context) (c : Cycle), cfg.wf →
    (∀ i, decode cfg ctx c = .ok i → encode i = c ∧ i.wellFormed cfg = true ∧ i.inContext ctx = true) ∧
    (decode cfg ctx c = .error .outsideWindow ↔
      ∃ h, ¬ (cfg.windowBase ≤ h ∧ h < cfg.windowBase + cfg.windowSize) ∧ (c = .br h ∨ ∃ v, c = .bw h v))

/-- The decoder of R63, with its chains of tests, selects the row that R60's reading of the opcode table
selects: the first row in table order whose context holds and whose bits match under the mask. -/
def Obligations.DecoderAgreesWithOpcodeTable : Prop :=
  ∀ (ctx : Context) (a : Nat) (v : Byte), selectByTable ctx a v = some (selectWrite ctx a v)

/-- The command decode looks at the low 15 address bits only (R47), and never at the software-ID flag (R62). -/
def Obligations.CommandDecodeIgnoresHighAddressBits : Prop :=
  (∀ a, cmdAddr a = 0x5555 ↔ a % 0x8000 = 0x5555) ∧
  ∀ (ctx : Context) (sid : Bool) (a b : Nat) (v : Byte), a % 0x8000 = b % 0x8000 →
    selectWrite ctx a v = selectWrite { ctx with softwareId := sid } b v

/-- The `(mode, cycle)` pairs are those of R23; a restore that supplies another pair is refused (the spec's own
inference and its decision D18; log 5, log 11). -/
def Obligations.OnlyLegalModeCyclePairsOccur : Prop :=
  (∀ (m : Mode) (c : Nat),
    (∃ s : State, s.mode = m ∧ s.cycle = c) ↔
      (m, c) ∈ [(Mode.waitingForCommand, 0), (Mode.waitingForCommand, 1), (Mode.waitingForCommand, 2),
        (Mode.write, 3), (Mode.erase, 3), (Mode.erase, 4), (Mode.erase, 5)]) ∧
  ∀ (s : State) (t : Nat) (saved : Snapshot) (rest : List Access), s.cfg.wf →
    s.script = ⟨t, .restore saved⟩ :: rest →
    (¬ ∃ u : State, u.mode = saved.mode ∧ u.cycle = saved.cycle) → step s = .refused .restoreBadPair

/-! ### The step and the host's operations -/

/-- A step whose next operation is a bus cycle that decodes to `i` is the execution of `i`, in the state whose
clock is the operation's, whose script has moved past it, and which has returned nothing yet (log 2, 3, 4). -/
def Obligations.StepRunsTheDecodedInstruction : Prop :=
  ∀ (s : State) (t : Nat) (c : Cycle) (rest : List Access) (i : Instr), s.cfg.wf →
    s.script = ⟨t, .cycle c⟩ :: rest →
    decode s.cfg ⟨s.stage, decide (t < s.busyUntilClock), s.softwareId⟩ c = .ok i →
    step s = exec i { s with clock := t, script := rest, response := .nothing }

/-- An access outside the window changes no state of the block (R43): only the step's own bookkeeping (log 2 to
4) happens. -/
def Obligations.AccessOutsideTheWindowIsNotSeen : Prop :=
  ∀ (s : State) (t h : Nat) (v : Byte) (rest : List Access) (c : Cycle), s.cfg.wf →
    (c = .bw h v ∨ c = .br h) → s.script = ⟨t, .cycle c⟩ :: rest →
    (h < s.cfg.windowBase ∨ s.cfg.windowBase + s.cfg.windowSize ≤ h) →
    step s = .next { s with clock := t, script := rest, response := .nothing }

/-- A configuration is well formed exactly when these hold, and one that is not is refused (and only such a one is
refused so): R7, which is the spec's own decision D23 (log 10). -/
def Obligations.IllFormedConfigurationIsRefused : Prop :=
  ∀ s : State, step s = .refused .illFormedConfig ↔
    ¬ (1 ≤ s.cfg.flashSize ∧ s.cfg.split ≤ s.cfg.windowSize ∧ 1 ≤ s.cfg.bankBits ∧
      s.cfg.dataPollBit ≠ s.cfg.toggleBit ∧ s.cfg.dataPollBit ≤ 7 ∧ s.cfg.toggleBit ≤ 7 ∧
      s.cfg.shiftDataBit ≤ 7 ∧ s.cfg.sectorMask &&& 0xFFF = 0 ∧ 1 ≤ s.cfg.clockRate)

/-- `ChipReset()` (R230) sets the five chip fields and changes nothing else, not `mem` and not the bank (R233). The
values 0 of the deadline and the status byte are the spec's decision D19 (log 17). -/
def Obligations.ChipResetClearsTheFiveChipFields : Prop :=
  ∀ (s : State) (t : Nat) (rest : List Access), s.cfg.wf → s.script = ⟨t, .chipReset⟩ :: rest →
    ∃ u, step s = .next u ∧
      u.mode = .waitingForCommand ∧ u.cycle = 0 ∧
      u = { s with
        stage := u.stage, softwareId := false, busyUntilClock := 0, busyStatusByte := 0x00#8,
        clock := t, script := rest, response := .nothing }

/-- `HardReset()` (R232) is `ChipReset()` and a fresh draw of the bank from `[0, BANK_MASK]`; `mem` is
unchanged (R233). That the bank is drawn is the spec's decision D21 (log 7); the draw counter is the model's own
(log 6). -/
def Obligations.HardResetDrawsTheBank : Prop :=
  ∀ (s : State) (t : Nat) (rest : List Access), s.cfg.wf → s.script = ⟨t, .hardReset⟩ :: rest →
    ∃ u, step s = .next u ∧
      u.mode = .waitingForCommand ∧ u.cycle = 0 ∧ u.bank ≤ 2 ^ s.cfg.bankBits - 1 ∧
      u = { s with
        stage := u.stage, softwareId := false, busyUntilClock := 0, busyStatusByte := 0x00#8,
        bank := u.bank, draws := s.draws + 1, clock := t, script := rest, response := .nothing }

/-- What reset leaves of the state of R20 (R32, R231): the chip fields and a bank of `BANK_BITS` bits. The
values are the spec's decisions D19 to D21 (log 7, log 17). The configuration, the delay switch and the memory of
`State.reset` are the model's choice (log 1, 8, 19), so nothing is said of them. -/
def Obligations.ResetLeavesTheChipIdle : Prop :=
  State.reset.mode = .waitingForCommand ∧ State.reset.cycle = 0 ∧ State.reset.softwareId = false ∧
  State.reset.busyUntilClock = 0 ∧ State.reset.busyStatusByte = 0x00#8 ∧
  State.reset.bank ≤ 2 ^ State.reset.cfg.bankBits - 1 ∧ (∀ t, ¬ t < State.reset.busyUntilClock)

/-- A snapshot returns the state of R20 verbatim and changes nothing else; a restore sets every field to the
snapshot's value and nothing else, and is refused exactly when the pair or the bank is illegal (R34). That the bank is
captured and the refusals are the spec's decision D18 (log 11); that an image is read as a list of cells, and that
the clock, the configuration and the script stay, are the model's (log 9, log 23). -/
def Obligations.SnapshotCopiesAndRestoreSetsEveryField : Prop :=
  ∀ (s : State) (t : Nat) (rest : List Access), s.cfg.wf →
    (s.script = ⟨t, .snapshot⟩ :: rest →
      step s = .next { s with
        clock := t, script := rest,
        response := .saved ⟨s.mode, s.cycle, s.softwareId, s.busyUntilClock, s.busyStatusByte, s.mem, s.bank⟩ }) ∧
    ∀ saved : Snapshot, s.script = ⟨t, .restore saved⟩ :: rest →
      ((¬ ∃ st : Stage, st.mode = saved.mode ∧ st.cycle = saved.cycle) → step s = .refused .restoreBadPair) ∧
      ((∃ st : Stage, st.mode = saved.mode ∧ st.cycle = saved.cycle) → 2 ^ s.cfg.bankBits - 1 < saved.bank →
        step s = .refused .restoreBadBank) ∧
      ((∃ st : Stage, st.mode = saved.mode ∧ st.cycle = saved.cycle) → saved.bank ≤ 2 ^ s.cfg.bankBits - 1 →
        ∃ u, step s = .next u ∧ u.mode = saved.mode ∧ u.cycle = saved.cycle ∧
          (∀ a < s.cfg.flashSize, u.mem.read a = Memory.read saved.image a) ∧
          u = { s with
            stage := u.stage, mem := u.mem, softwareId := saved.softwareId,
            busyUntilClock := saved.busyUntilClock, busyStatusByte := saved.busyStatusByte,
            bank := saved.bank, clock := t, script := rest, response := .nothing })

/-- Restoring a snapshot taken in a state that meets the invariant gives back that state's record of R20,
whatever the machine did in between: the same remaining busy window, the same next toggle value and the same
memory list (R34; D18, log 23). -/
def Obligations.RestoreUndoesEverythingSinceTheSnapshot : Prop :=
  ∀ (s u : State), Inv s → u.cfg = s.cfg →
    u.restore s.snapshot = .next { u with
      stage := s.stage, softwareId := s.softwareId, busyUntilClock := s.busyUntilClock,
      busyStatusByte := s.busyStatusByte, mem := s.mem, bank := s.bank }

/-- Replacing the memory changes `mem` only (R35): a byte of the array reads as the image gives it. That the
first cell of an address counts and that a cell outside the array is no byte of it is the model's reading of an
image (log 9). -/
def Obligations.ReplaceMemoryChangesOnlyTheArray : Prop :=
  ∀ (s : State) (t : Nat) (image : List Host.Cell) (rest : List Access), s.cfg.wf →
    s.script = ⟨t, .replaceMemory image⟩ :: rest →
    ∃ u, step s = .next u ∧
      (∀ a < s.cfg.flashSize, u.mem.read a = Memory.read image a) ∧
      (∀ a, s.cfg.flashSize ≤ a → u.mem.read a = Memory.unlisted) ∧
      u = { s with mem := u.mem, clock := t, script := rest, response := .nothing }

/-- Setting `DELAYS_ENABLED` changes the switch only: a busy window already started runs on (R31, R175; D28). -/
def Obligations.DelaySwitchChangesOnlyItself : Prop :=
  ∀ (s : State) (t : Nat) (b : Bool) (rest : List Access), s.cfg.wf → s.script = ⟨t, .setDelays b⟩ :: rest →
    step s = .next { s with delaysEnabled := b, clock := t, script := rest, response := .nothing }

/-! ### Chip writes -/

/-- The unlock bytes advance the cycle and change nothing else, from any flat address with the right low 15
bits (R101, R104, R150, R151). -/
def Obligations.UnlockBytesAdvanceTheCycle : Prop :=
  ∀ (s : State) (a : Nat),
    ((s.idleAt .wait0 → a &&& 0x7FFF = 0x5555 → s.decodesTo (.cw a 0xAA#8) (.unlock1 a 0xAA#8)) ∧
      exec (.unlock1 a 0xAA#8) s = .next { s with stage := .wait1 }) ∧
    ((s.idleAt .wait1 → a &&& 0x7FFF = 0x2AAA → s.decodesTo (.cw a 0x55#8) (.unlock2 a 0x55#8)) ∧
      exec (.unlock2 a 0x55#8) s = .next { s with stage := .wait2 }) ∧
    ((s.idleAt .erase3 → a &&& 0x7FFF = 0x5555 → s.decodesTo (.cw a 0xAA#8) (.eraseUnlock1 a 0xAA#8)) ∧
      exec (.eraseUnlock1 a 0xAA#8) s = .next { s with stage := .erase4 }) ∧
    ((s.idleAt .erase4 → a &&& 0x7FFF = 0x2AAA → s.decodesTo (.cw a 0x55#8) (.eraseUnlock2 a 0x55#8)) ∧
      exec (.eraseUnlock2 a 0x55#8) s = .next { s with stage := .erase5 })

/-- The setup commands enter `(Erase, 3)` and `(Write, 3)` and change nothing else (R107, R109). -/
def Obligations.SetupCommandsEnterTheirModes : Prop :=
  ∀ (s : State) (a : Nat),
    ((s.idleAt .wait2 → a &&& 0x7FFF = 0x5555 → s.decodesTo (.cw a 0x80#8) (.eraseSetup a 0x80#8)) ∧
      exec (.eraseSetup a 0x80#8) s = .next { s with stage := .erase3 }) ∧
    ((s.idleAt .wait2 → a &&& 0x7FFF = 0x5555 → s.decodesTo (.cw a 0xA0#8) (.programSetup a 0xA0#8)) ∧
      exec (.programSetup a 0xA0#8) s = .next { s with stage := .write3 })

/-- AbortCommand (R100) sets mode and cycle and keeps everything else; these rows are AbortCommand and nothing
more (R105, R106, R111, R152), for every write that no other row of their context takes. -/
def Obligations.AbortRowsClearOnlyModeAndCycle : Prop :=
  ∀ (s : State) (a : Nat) (v : Byte),
    (Stage.wait0.mode = .waitingForCommand ∧ Stage.wait0.cycle = 0 ∧
      s.abortCommand = { s with stage := .wait0 }) ∧
    ((s.idleAt .wait1 → ¬ (a &&& 0x7FFF = 0x2AAA ∧ v = 0x55#8) → s.decodesTo (.cw a v) (.abortAt1 a v)) ∧
      exec (.abortAt1 a v) s = .next { s with stage := .wait0 }) ∧
    ((s.idleAt .wait2 → a &&& 0x7FFF ≠ 0x5555 → s.decodesTo (.cw a v) (.abortAt2Addr a v)) ∧
      exec (.abortAt2Addr a v) s = .next { s with stage := .wait0 }) ∧
    ((s.idleAt .wait2 → a &&& 0x7FFF = 0x5555 → v ∉ [0x80#8, 0x90#8, 0xA0#8, 0xF0#8] →
        s.decodesTo (.cw a v) (.abortAt2Cmd a v)) ∧
      exec (.abortAt2Cmd a v) s = .next { s with stage := .wait0 }) ∧
    ((s.idleAt .erase3 → ¬ (a &&& 0x7FFF = 0x5555 ∧ v = 0xAA#8) → s.decodesTo (.cw a v) (.abortAtE3 a v)) ∧
      exec (.abortAtE3 a v) s = .next { s with stage := .wait0 }) ∧
    ((s.idleAt .erase4 → ¬ (a &&& 0x7FFF = 0x2AAA ∧ v = 0x55#8) → s.decodesTo (.cw a v) (.abortAtE4 a v)) ∧
      exec (.abortAtE4 a v) s = .next { s with stage := .wait0 })

/-- ERASE_NONE: a write at `(Erase, 5)` that is neither `5555=10` nor a `30` aborts and does nothing more: no erase
and no busy window (R156). That `10` at another command address is such a write is the spec's decision D16
(log 17). -/
def Obligations.OtherEraseCommandBytesOnlyAbort : Prop :=
  ∀ (s : State) (a : Nat) (v : Byte),
    (s.idleAt .erase5 → ¬ (a &&& 0x7FFF = 0x5555 ∧ v = 0x10#8) → v ≠ 0x30#8 →
      s.decodesTo (.cw a v) (.eraseNone a v)) ∧
    exec (.eraseNone a v) s = .next { s with stage := .wait0 }

/-- A chip write while busy has no effect on any state, direct or through the window, whatever the stage and
the software-ID flag are; a bank write still shifts the register, as on an idle chip (R174, R196; that bank writes are
not blocked while busy is the spec's decision D37, log 17). An unrecognised write at cycle 0 has no effect (R103). -/
def Obligations.BusyAndUnrecognisedFirstWritesAreIgnored : Prop :=
  ∀ (s : State) (a : Nat) (v : Byte),
    ((s.clock < s.busyUntilClock → s.decodesTo (.cw a v) (.busyIgnore a v)) ∧
      exec (.busyIgnore a v) s = .next s) ∧
    (s.clock < s.busyUntilClock → ∀ h, exec (.flashForward h v) s = .next s) ∧
    (s.clock < s.busyUntilClock → ∀ h, ∃ b, exec (.bankShift h v) s = .next { s with bank := b } ∧
      exec (.bankShift h v) { s with busyUntilClock := 0 } = .next { s with busyUntilClock := 0, bank := b }) ∧
    ((s.idleAt .wait0 → ¬ (a &&& 0x7FFF = 0x5555 ∧ v = 0xAA#8) → v ≠ 0xF0#8 →
        s.decodesTo (.cw a v) (.ignoreAt0 a v)) ∧
      exec (.ignoreAt0 a v) s = .next s)

/-- Software-ID entry sets the flag and aborts; the two exits clear it and abort; nothing else changes
(R102, R108, R110). -/
def Obligations.SoftwareIdCommandsSetAndClearTheFlag : Prop :=
  ∀ (s : State) (a : Nat),
    ((s.idleAt .wait2 → a &&& 0x7FFF = 0x5555 → s.decodesTo (.cw a 0x90#8) (.idEntry a 0x90#8)) ∧
      exec (.idEntry a 0x90#8) s = .next { s with softwareId := true, stage := .wait0 }) ∧
    ((s.idleAt .wait2 → a &&& 0x7FFF = 0x5555 → s.decodesTo (.cw a 0xF0#8) (.idExitLong a 0xF0#8)) ∧
      exec (.idExitLong a 0xF0#8) s = .next { s with softwareId := false, stage := .wait0 }) ∧
    ((s.idleAt .wait0 → s.decodesTo (.cw a 0xF0#8) (.idExitShort a 0xF0#8)) ∧
      exec (.idExitShort a 0xF0#8) s = .next { s with softwareId := false, stage := .wait0 })

/-- PROGRAM (R130, R131): every write at `(Write, 3)` is the data cycle. In bounds the byte at the unmasked
address becomes `old & v` and every other byte stays; out of bounds no byte changes. With delays enabled, in
bounds or where `OOB_STARTS_BUSY` says so, the busy window starts with the data# bit `(~v)[7]`. The command
ends. Nothing else changes. The unmasked address, the rounding of the window, the other status bits and the window of
an out-of-bounds program are the spec's decisions D27, D6, D9 and D15 (log 17). -/
def Obligations.ProgramAndsTheByteAndStartsTheWindow : Prop :=
  ∀ (s : State) (a : Nat) (v : Byte),
    (s.idleAt .write3 → s.decodesTo (.cw a v) (.program a v)) ∧
    (s.mem.wf → ∃ t, exec (.program a v) s = .next t ∧
      (∀ b, t.mem.read b = if b = a ∧ a < s.cfg.flashSize then s.mem.read a &&& v else s.mem.read b) ∧
      t = { s with
        stage := .wait0, mem := t.mem,
        busyUntilClock :=
          if s.delaysEnabled = true ∧ (a < s.cfg.flashSize ∨ s.cfg.oobStartsBusy = true) then
            s.clock + s.cfg.clockRate * s.cfg.programDelayUs / 1000000
          else s.busyUntilClock,
        busyStatusByte :=
          if s.delaysEnabled = true ∧ (a < s.cfg.flashSize ∨ s.cfg.oobStartsBusy = true) then
            (if v.getLsbD 7 then 0x00#8 else 1#8 <<< s.cfg.dataPollBit)
          else s.busyStatusByte })

/-- CHIP_ERASE (R153): `5555=10` at `(Erase, 5)` makes every byte of the array 0xFF, starts the long busy
window with data# bit 0 when delays are enabled, and ends the command. Nothing else changes. The data# bit and the
rounding are the spec's decisions D10 and D6 (log 17). -/
def Obligations.ChipEraseFillsTheArray : Prop :=
  ∀ (s : State) (a : Nat),
    (s.idleAt .erase5 → a &&& 0x7FFF = 0x5555 → s.decodesTo (.cw a 0x10#8) (.chipErase a 0x10#8)) ∧
    ∃ t, exec (.chipErase a 0x10#8) s = .next t ∧
      (∀ b, t.mem.read b = if b < s.cfg.flashSize then 0xFF#8 else s.mem.read b) ∧
      t = { s with
        stage := .wait0, mem := t.mem,
        busyUntilClock :=
          if s.delaysEnabled = true then s.clock + s.cfg.clockRate * s.cfg.chipEraseDelayUs / 1000000
          else s.busyUntilClock,
        busyStatusByte := if s.delaysEnabled = true then 0x00#8 else s.busyStatusByte }

/-- SECTOR_ERASE (R154, R155): `30` at any address at `(Erase, 5)` makes the 4096 bytes of the sector at
`a & SECTOR_MASK` 0xFF when the whole sector is in the array, and no byte otherwise; the sector is 4096-aligned.
The busy window starts with data# bit 0 when delays are enabled, in bounds or where `OOB_STARTS_BUSY` says so;
the command ends. Nothing else changes. The window of an out-of-bounds erase, the data# bit and the rounding are the
spec's decisions D15, D10 and D6 (log 17). -/
def Obligations.SectorEraseFillsTheAlignedSector : Prop :=
  ∀ (s : State) (a : Nat),
    (s.idleAt .erase5 → s.decodesTo (.cw a 0x30#8) (.sectorErase a 0x30#8)) ∧
    (s.cfg.wf → (a &&& s.cfg.sectorMask) % 4096 = 0) ∧
    ∃ t, exec (.sectorErase a 0x30#8) s = .next t ∧
      (∀ b, t.mem.read b =
        if (a &&& s.cfg.sectorMask) + 4096 ≤ s.cfg.flashSize ∧ (a &&& s.cfg.sectorMask) ≤ b ∧
            b < (a &&& s.cfg.sectorMask) + 4096 then 0xFF#8
        else s.mem.read b) ∧
      t = { s with
        stage := .wait0, mem := t.mem,
        busyUntilClock :=
          if s.delaysEnabled = true ∧
              ((a &&& s.cfg.sectorMask) + 4096 ≤ s.cfg.flashSize ∨ s.cfg.oobStartsBusy = true) then
            s.clock + s.cfg.clockRate * s.cfg.sectorEraseDelayUs / 1000000
          else s.busyUntilClock,
        busyStatusByte :=
          if s.delaysEnabled = true ∧
              ((a &&& s.cfg.sectorMask) + 4096 ≤ s.cfg.flashSize ∨ s.cfg.oobStartsBusy = true) then 0x00#8
          else s.busyStatusByte }

/-- With delays disabled (R171) a program or erase leaves the deadline and the status byte as they are, and its
memory change is the one it makes with delays enabled. That the status byte stays is the spec's decision D29
(log 17). -/
def Obligations.DisabledDelaysStartNoWindow : Prop :=
  ∀ (s : State) (a : Nat) (v : Byte) (i : Instr), s.delaysEnabled = false →
    (i = .program a v ∨ i = .chipErase a v ∨ i = .sectorErase a v) →
    ∃ t u, exec i s = .next t ∧ exec i { s with delaysEnabled := true } = .next u ∧
      t.mem = u.mem ∧ t = { s with stage := .wait0, mem := t.mem }

/-! ### Reads -/

/-- A chip read picks software-ID first, then busy, then the array (R80), and does what R81 to R83 say: the ID
pattern at `a & 0x1FF`; the status byte after its toggle bit is flipped, and that flip the only state written;
`ABSENT`. What is returned stands in `response` (log 4). -/
def Obligations.ChipReadPriorityAndResults : Prop :=
  ∀ (s : State) (a : Nat),
    ((s.softwareId = true → s.decodesTo (.cr a) (.readId a)) ∧
      exec (.readId a) s = .next { s with
        response := .chip (.present
          (if a &&& 0x1FF = 0 then s.cfg.manufacturerId
           else if a &&& 0x1FF = 1 then s.cfg.deviceId else 0xFF#8)) }) ∧
    ((s.softwareId = false → s.clock < s.busyUntilClock → s.decodesTo (.cr a) (.readStatus a)) ∧
      exec (.readStatus a) s = .next { s with
        busyStatusByte := s.busyStatusByte ^^^ (1#8 <<< s.cfg.toggleBit),
        response := .chip (.present (s.busyStatusByte ^^^ (1#8 <<< s.cfg.toggleBit))) }) ∧
    ((s.softwareId = false → s.busyUntilClock ≤ s.clock → s.decodesTo (.cr a) (.readArray a)) ∧
      exec (.readArray a) s = .next { s with response := .chip .absent })

/-- A window read, in either portion of the window, returns the chip's special value at the flat address if
there is one, else the array's byte at the same flat address, else (beyond the array) some byte; it writes
nothing but the toggle bit, and the draw counter of the model (log 6) (R44, R45, R46, R194). That both portions
consult the chip, the address of a read and the draw are the spec's decisions D24, D41 and D25 (log 6, log 17). -/
def Obligations.WindowReadReturnsChipValueOrArrayByte : Prop :=
  ∀ (s : State) (h fa : Nat),
    fa = ((h - s.cfg.windowBase) &&& (2 ^ s.cfg.pageShift - 1)) ||| (s.bank <<< s.cfg.pageShift) →
    (s.cfg.windowBase ≤ h → h < s.cfg.windowBase + s.cfg.windowSize → s.decodesTo (.br h) (.windowRead h)) ∧
    (s.softwareId = true →
      exec (.windowRead h) s = .next { s with
        response := .byte
          (if fa &&& 0x1FF = 0 then s.cfg.manufacturerId
           else if fa &&& 0x1FF = 1 then s.cfg.deviceId else 0xFF#8) }) ∧
    (s.softwareId = false → s.clock < s.busyUntilClock →
      exec (.windowRead h) s = .next { s with
        busyStatusByte := s.busyStatusByte ^^^ (1#8 <<< s.cfg.toggleBit),
        response := .byte (s.busyStatusByte ^^^ (1#8 <<< s.cfg.toggleBit)) }) ∧
    (s.softwareId = false → s.busyUntilClock ≤ s.clock → fa < s.cfg.flashSize →
      exec (.windowRead h) s = .next { s with response := .byte (s.mem.read fa) }) ∧
    (s.softwareId = false → s.busyUntilClock ≤ s.clock → s.cfg.flashSize ≤ fa →
      ∃ b, exec (.windowRead h) s = .next { s with response := .byte b, draws := s.draws + 1 })

/-- Toggle polling (R237): two consecutive window reads of one host address, not in software-ID mode, no write
between, the clock not decreasing, the flat address in the array, return equal bytes in exactly two cases:
neither is busy, or only the first is busy and the array byte equals the status byte it returned. In
software-ID mode they always agree. The spec derives R237 from R80, R82, R83 and R194. -/
def Obligations.ConsecutiveWindowReadsAgreeAsR237Says : Prop :=
  ∀ (s : State) (t₁ t₂ h fa : Nat) (rest : List Access), s.cfg.wf → t₁ ≤ t₂ →
    s.script = ⟨t₁, .cycle (.br h)⟩ :: ⟨t₂, .cycle (.br h)⟩ :: rest →
    s.cfg.windowBase ≤ h → h < s.cfg.windowBase + s.cfg.windowSize →
    fa = ((h - s.cfg.windowBase) &&& (2 ^ s.cfg.pageShift - 1)) ||| (s.bank <<< s.cfg.pageShift) →
    fa < s.cfg.flashSize →
    ∃ s₁ s₂ b₁ b₂, step s = .next s₁ ∧ s₁.response = .byte b₁ ∧ step s₁ = .next s₂ ∧ s₂.response = .byte b₂ ∧
      (s.softwareId = false →
        (b₁ = b₂ ↔
          (s.busyUntilClock ≤ t₁ ∧ s.busyUntilClock ≤ t₂) ∨
          (t₁ < s.busyUntilClock ∧ s.busyUntilClock ≤ t₂ ∧ s.mem.read fa = b₁)) ∧
        (t₁ < s.busyUntilClock → t₂ < s.busyUntilClock → b₂ = b₁ ^^^ (1#8 <<< s.cfg.toggleBit))) ∧
      (s.softwareId = true → b₁ = b₂)

/-- Data# polling (R238), with the data# bit at 7 as R6 has it: after a program of `v` with delays enabled, bit
7 of every busy read is the complement of `v[7]`, however many reads come before it, and bit 7 of the programmed
byte is `(old & v)[7]`; after an erase bit 7 of a busy read is 0 and bit 7 of an erased byte is 1. The spec derives R238; the erase's data#
bit is its decision D10 (log 17). -/
def Obligations.DataPollingBitDuringProgramAndErase : Prop :=
  ∀ (s : State) (a : Nat) (v : Byte), s.cfg.wf → s.mem.wf → s.delaysEnabled = true → s.cfg.dataPollBit = 7 →
    (a < s.cfg.flashSize → ∃ t, exec (.program a v) s = .next t ∧
      (∀ n, ((toggledStatus s.cfg)^[n] t.busyStatusByte).getLsbD 7 = !(v.getLsbD 7)) ∧
      (t.mem.read a).getLsbD 7 = ((s.mem.read a).getLsbD 7 && v.getLsbD 7)) ∧
    ((a < s.cfg.flashSize) → ∃ t, exec (.chipErase a v) s = .next t ∧
      (∀ n, ((toggledStatus s.cfg)^[n] t.busyStatusByte).getLsbD 7 = false) ∧
      (t.mem.read a).getLsbD 7 = true) ∧
    ((a &&& s.cfg.sectorMask) + 4096 ≤ s.cfg.flashSize → ∃ t, exec (.sectorErase a v) s = .next t ∧
      (∀ n, ((toggledStatus s.cfg)^[n] t.busyStatusByte).getLsbD 7 = false) ∧
      (t.mem.read (a &&& s.cfg.sectorMask)).getLsbD 7 = true)

/-! ### The bank mux -/

/-- FLASH_FORWARD (R191): a host write in the lower portion is the chip write of the same byte at the flat
address of R44: `exec` does with it what it does with the instruction that the decoder reads from that chip
write; it always answers a next state, and it reads the bank and does not write it. -/
def Obligations.FlashForwardIsAChipWriteAtTheFlatAddress : Prop :=
  ∀ (s : State) (h fa : Nat) (v : Byte),
    fa = ((h - s.cfg.windowBase) &&& (2 ^ s.cfg.pageShift - 1)) ||| (s.bank <<< s.cfg.pageShift) →
    (s.cfg.windowBase ≤ h → h < s.cfg.windowBase + s.cfg.split → s.decodesTo (.bw h v) (.flashForward h v)) ∧
    ∃ i t, s.decodesTo (.cw fa v) i ∧ exec (.flashForward h v) s = exec i s ∧
      exec (.flashForward h v) s = .next t ∧ t.bank = s.bank

/-- BANK_SHIFT (R192): the register shifts right by one and takes the written byte's bit at the top; the local
address is ignored; nothing else changes. Which bit of the byte, and that the top is `BANK_BITS - 1`, are the spec's
parameters and decisions D40 and D23 (log 16). -/
def Obligations.BankShiftInsertsTheTopBit : Prop :=
  ∀ (s : State) (h : Nat) (v : Byte),
    (s.cfg.windowBase + s.cfg.split ≤ h → h < s.cfg.windowBase + s.cfg.windowSize →
      s.decodesTo (.bw h v) (.bankShift h v)) ∧
    exec (.bankShift h v) s = .next { s with
      bank := ((s.bank >>> 1) ||| (((v.toNat >>> s.cfg.shiftDataBit) &&& 1) <<< (s.cfg.bankBits - 1))) &&&
        (2 ^ s.cfg.bankBits - 1) }

/-- Loading a bank (R193): after `k ≤ BANK_BITS` bank writes of bytes `vs`, from a bank of `BANK_BITS` bits, bit
`j` of the bank is the bit shifted in by write `j + k - BANK_BITS` if there is one, and bit `j + k` of the old
bank otherwise; after `BANK_BITS` writes the bank is the sum of the shifted-in bits `b_i << i`, whatever it was
before. Nothing else changes. The spec derives R193 from R192. -/
def Obligations.BankLoadTakesBankBitsWrites : Prop :=
  ∀ (s : State) (h : Nat) (vs : List Byte), s.cfg.wf → s.bank ≤ 2 ^ s.cfg.bankBits - 1 →
    vs.length ≤ s.cfg.bankBits →
    ∃ n, vs.foldl (fun (o : Out) v => match o with
          | .next u => exec (.bankShift h v) u
          | .fault r => .fault r
          | .refused r => .refused r) (.next s) = .next { s with bank := n } ∧
      n ≤ 2 ^ s.cfg.bankBits - 1 ∧
      (∀ j < s.cfg.bankBits, n.testBit j =
        if j + vs.length < s.cfg.bankBits then s.bank.testBit (j + vs.length)
        else (vs.getD (j + vs.length - s.cfg.bankBits) 0#8).getLsbD s.cfg.shiftDataBit) ∧
      (vs.length = s.cfg.bankBits →
        n = ((List.range s.cfg.bankBits).map fun i =>
          ((vs.getD i 0#8).getLsbD s.cfg.shiftDataBit).toNat <<< i).sum)

/-- The bank and the chip do not affect each other except through the flat address (R196): a chip write or a
chip read does the same with any other bank in its place, and keeps it; a chip reset keeps the bank; a bank
write keeps the chip, and it is not ignored while the chip is busy. R196 is the spec's decision D37 (log 17). -/
def Obligations.BankAndChipAreIndependent : Prop :=
  ∀ (s : State) (c : Cycle) (i : Instr) (b : Nat),
    ((∃ a v, c = .cw a v) ∨ ∃ a, c = .cr a) → s.decodesTo c i →
    (∃ t, exec i s = .next t ∧ t.bank = s.bank ∧
      State.decodesTo { s with bank := b } c i ∧ exec i { s with bank := b } = .next { t with bank := b }) ∧
    s.chipReset.bank = s.bank ∧
    ∀ h v, ∃ n, exec (.bankShift h v) s = .next { s with bank := n } ∧
      exec (.bankShift h v) { s with busyUntilClock := s.clock + 1 } =
        .next { s with busyUntilClock := s.clock + 1, bank := n }

/-- Under the example configuration EX of R9, the command address that a host write presents is
`((bank & 1) << 14) | (local & 0x3FFF)` (R191, R239): so the two unlock addresses need different banks. With a
page of 32 KiB or more the bank does not show in it. -/
def Obligations.CommandAddressDependsOnTheBank : Prop :=
  (∀ bank loc, cmdAddr (flatAddr Config.ex bank loc) = ((bank &&& 1) <<< 14) ||| (loc &&& 0x3FFF)) ∧
  (∀ bank loc, cmdAddr (flatAddr Config.ex bank loc) = 0x5555 → bank % 2 = 1) ∧
  (∀ bank loc, cmdAddr (flatAddr Config.ex bank loc) = 0x2AAA → bank % 2 = 0) ∧
  ∀ (c : Config) (bank loc : Nat), 15 ≤ c.pageShift → cmdAddr (flatAddr c bank loc) = cmdAddr loc

/-! ### Whole-machine rules -/

/-- Every instruction answers a next state, in every state. R211 says so of the accesses under a well-formed
configuration; that a row answers one outside its context as well, and that `exec` does not check the configuration,
are the model's choices (log 15, log 10). -/
def Obligations.EveryInstructionCompletes : Prop :=
  ∀ (i : Instr) (s : State), ∃ t, exec i s = .next t ∧
    t.cfg = s.cfg ∧ t.delaysEnabled = s.delaysEnabled ∧ t.clock = s.clock ∧ t.script = s.script

/-- The structural invariant holds at power-on, for every well-formed configuration, canonical image and bank of
`BANK_BITS` bits, and of `State.reset` (R7, R28, R29, R231, R232). -/
def Obligations.InvariantHoldsAtPowerOn : Prop :=
  (∀ (cfg : Config) (delays : Bool) (image : Memory) (bank : Nat), cfg.wf → image.wf →
    image.within cfg.flashSize → bank ≤ 2 ^ cfg.bankBits - 1 → Inv (State.powerOn cfg delays image bank)) ∧
  Inv State.reset

/-- Every step keeps the structural invariant: the memory stays canonical and inside the array, and the bank
keeps to `BANK_BITS` bits (R28, R29, R131, R155, R34). -/
def Obligations.StepKeepsInvariant : Prop :=
  ∀ s t : State, Inv s → step s = .next t → Inv t

/-- At power-on, with any script in which the clock never decreases and no snapshot is restored, the premise of
R37's invariant holds. -/
def Obligations.BusyIsIdleHoldsAtPowerOn : Prop :=
  ∀ (cfg : Config) (delays : Bool) (image : Memory) (bank : Nat) (script : List Access),
    quietScript 0 script = true →
    BusyIsIdle { State.powerOn cfg delays image bank with script := script }

/-- R37: from a state in which "busy implies idle" holds, with a clock that never decreases and no restore to
come, every step keeps it: a busy window never has a command in progress. -/
def Obligations.StepKeepsBusyIsIdle : Prop :=
  ∀ s t : State, BusyIsIdle s → step s = .next t → BusyIsIdle t

/-- Only the software-ID entry command sets `softwareId`, and only the exit commands and a reset clear it (R24);
a restore aside. -/
def Obligations.OnlyIdCommandsAndResetChangeSoftwareId : Prop :=
  ∀ (s t : State) (acc : Access) (rest : List Access), s.script = acc :: rest → acc.op.noRestore = true →
    step s = .next t → t.softwareId ≠ s.softwareId →
    (t.softwareId = false ∧ (acc.op = .chipReset ∨ acc.op = .hardReset)) ∨
    ∃ a v, acceptedWrite s acc.t acc.op a v ∧
      ((t.softwareId = true ∧ s.stage = .wait2 ∧ a &&& 0x7FFF = 0x5555 ∧ v = 0x90#8) ∨
       (t.softwareId = false ∧ v = 0xF0#8 ∧
         (s.stage = .wait0 ∨ (s.stage = .wait2 ∧ a &&& 0x7FFF = 0x5555))))

/-- R175: in a step at a clock value inside the busy window, only a reset changes the deadline: no write, read,
bank write, snapshot, memory replacement or change of the delay switch ends or extends the window, and
AbortCommand keeps it; a restore aside. That a change of the delay switch does not end or extend a window is the
spec's decision D28 (R31, log 17). -/
def Obligations.OnlyResetEndsABusyWindow : Prop :=
  (∀ s : State, s.abortCommand.busyUntilClock = s.busyUntilClock) ∧
  ∀ (s t : State) (acc : Access) (rest : List Access), s.script = acc :: rest → acc.op.noRestore = true →
    acc.t < s.busyUntilClock → step s = .next t →
    t.busyUntilClock = s.busyUntilClock ∨
      ((acc.op = .chipReset ∨ acc.op = .hardReset) ∧ ∀ clock, ¬ clock < t.busyUntilClock)

/-- `busyUntilClock` is written only by a busy-window start and by a reset (R25), a restore aside; a start is the
acceptance of a program's data write or of an erase command, with delays enabled, and the window's length is that
of the operation (R170, R176; the rounding is the spec's decision D6, log 17). -/
def Obligations.DeadlineIsWrittenOnlyByCommandsAndReset : Prop :=
  ∀ (s t : State) (acc : Access) (rest : List Access), s.script = acc :: rest → acc.op.noRestore = true →
    step s = .next t → t.busyUntilClock ≠ s.busyUntilClock →
    (t.busyUntilClock = 0 ∧ (acc.op = .chipReset ∨ acc.op = .hardReset)) ∨
    (s.busyUntilClock ≤ acc.t ∧ s.delaysEnabled = true ∧ ∃ a v, acceptedWrite s acc.t acc.op a v ∧
      ((s.stage = .write3 ∧
          t.busyUntilClock = acc.t + s.cfg.clockRate * s.cfg.programDelayUs / 1000000) ∨
       (s.stage = .erase5 ∧ a &&& 0x7FFF = 0x5555 ∧ v = 0x10#8 ∧
          t.busyUntilClock = acc.t + s.cfg.clockRate * s.cfg.chipEraseDelayUs / 1000000) ∨
       (s.stage = .erase5 ∧ v = 0x30#8 ∧
          t.busyUntilClock = acc.t + s.cfg.clockRate * s.cfg.sectorEraseDelayUs / 1000000)))

/-- The array is changed only by an accepted program or erase cycle, and by the host's replacement or restore
(R28, R53): no read, no unlock or abort cycle, no bank write and no reset changes a byte (R233). -/
def Obligations.OnlyProgramAndEraseChangeMemory : Prop :=
  ∀ (s t : State) (acc : Access) (rest : List Access), s.script = acc :: rest → step s = .next t →
    t.mem ≠ s.mem →
    (∃ saved, acc.op = .restore saved) ∨ (∃ image, acc.op = .replaceMemory image) ∨
    ∃ a v, acceptedWrite s acc.t acc.op a v ∧
      (s.stage = .write3 ∨
       (s.stage = .erase5 ∧ ((a &&& 0x7FFF = 0x5555 ∧ v = 0x10#8) ∨ v = 0x30#8)))

/-- Flash programming can only clear bits, never set them (R130): in a step that accepts no erase command and in
which the host neither replaces the memory nor restores a snapshot, no bit of any byte goes from 0 to 1. -/
def Obligations.BitsAreSetOnlyByErase : Prop :=
  ∀ (s t : State) (acc : Access) (rest : List Access), s.mem.wf → s.script = acc :: rest → step s = .next t →
    acc.op.noRestore = true → (∀ image, acc.op ≠ .replaceMemory image) →
    (∀ a v, acceptedWrite s acc.t acc.op a v → s.stage = .erase5 →
      ¬ ((a &&& 0x7FFF = 0x5555 ∧ v = 0x10#8) ∨ v = 0x30#8)) →
    ∀ b, t.mem.read b &&& s.mem.read b = t.mem.read b

/-- From `(WaitingForCommand, 0)` three chip writes, at any clock values, reach another mode only as the exact
sequences `5555=AA, 2AAA=55, 5555=A0` and `5555=AA, 2AAA=55, 5555=80` (R61, R65; the source's property as
90_conflicts.md C3 restricts it). -/
def Obligations.ModesAreEnteredOnlyThroughTheUnlock : Prop :=
  ∀ (s t : State) (t₁ t₂ t₃ a₁ a₂ a₃ : Nat) (v₁ v₂ v₃ : Byte) (rest : List Access), s.stage = .wait0 →
    s.script = ⟨t₁, .cycle (.cw a₁ v₁)⟩ :: ⟨t₂, .cycle (.cw a₂ v₂)⟩ :: ⟨t₃, .cycle (.cw a₃ v₃)⟩ :: rest →
    steps 3 s = .next t → t.mode ≠ .waitingForCommand →
    (a₁ &&& 0x7FFF = 0x5555 ∧ v₁ = 0xAA#8) ∧ (a₂ &&& 0x7FFF = 0x2AAA ∧ v₂ = 0x55#8) ∧
    a₃ &&& 0x7FFF = 0x5555 ∧ ((v₃ = 0xA0#8 ∧ t.stage = .write3) ∨ (v₃ = 0x80#8 ∧ t.stage = .erase3))

/-- The program and erase sequences of R61, as the pseudo-operations of R68 write them: from an idle chip at
`(WaitingForCommand, 0)` the four writes of `PROGRAM a, d` do what PROGRAM does at the last write's clock, and
the six writes of `SECTOR_ERASE a` and of `CHIP_ERASE` do what those rows do. -/
def Obligations.ProgramAndEraseSequencesReachTheirEffect : Prop :=
  ∀ (s : State) (t a : Nat) (d : Byte) (rest : List Access), s.cfg.wf → s.stage = .wait0 →
    s.busyUntilClock ≤ t →
    (s.script = scriptProgram t a d ++ rest →
      steps 4 s =
        exec (.program a d) { s with stage := .write3, clock := t + 3, script := rest, response := .nothing }) ∧
    (s.script = scriptSectorErase t a ++ rest →
      steps 6 s =
        exec (.sectorErase a 0x30#8)
          { s with stage := .erase5, clock := t + 5, script := rest, response := .nothing }) ∧
    (s.script = scriptChipErase t ++ rest →
      steps 6 s =
        exec (.chipErase 0x5555 0x10#8)
          { s with stage := .erase5, clock := t + 5, script := rest, response := .nothing })

/-- The software-ID sequences of R61 (R68): from an idle chip at `(WaitingForCommand, 0)` the three writes of the
entry set software-ID mode, and the three of the long exit and the one of the short exit (at any address) clear it;
each ends at `(WaitingForCommand, 0)` at the last write's clock, and nothing else changes. -/
def Obligations.SoftwareIdSequencesReachTheirEffect : Prop :=
  ∀ (s : State) (t a : Nat) (rest : List Access), s.cfg.wf → s.stage = .wait0 → s.busyUntilClock ≤ t →
    (s.script = scriptIdEntry t ++ rest →
      steps 3 s = .next { s with
        softwareId := true, clock := t + 2, script := rest, response := .nothing }) ∧
    (s.script = scriptUnlock t ++ [lineCW (t + 2) 0x5555 0xF0#8] ++ rest →
      steps 3 s = .next { s with
        softwareId := false, clock := t + 2, script := rest, response := .nothing }) ∧
    (s.script = lineCW t a 0xF0#8 :: rest →
      step s = .next { s with softwareId := false, clock := t, script := rest, response := .nothing })

/-- A placed table word is the very next instruction (the model's convention, log 13 and 14): the step runs the
instruction that `decodeTableWord` reads, whatever the machine was doing. -/
def Obligations.PlacedTableWordRunsNext : Prop :=
  ∀ (s : State) (nbits w : Nat) (i : Instr), s.cfg.wf → decodeTableWord nbits w = some i →
    ∃ u, step (s.withFetchWord nbits w) = exec i u ∧
      u = { s with
        stage := u.stage, softwareId := false, clock := max s.clock s.busyUntilClock, response := .nothing } ∧
      i.inContext u.context = true ∧ i.wellFormed s.cfg = true
end

