-- ==== Sys2Proof/Laws/Decode.lean ====
section
/-! SUPPORT. The decoder's laws: what it selects at each stage, and the compared word's parts. -/

namespace Sys2Proof

theorem selectWrite_busy {ctx : Context} (h : ctx.busy = true) (a : Nat) (v : Byte) :
    selectWrite ctx a v = .busyIgnore := by
  simp [selectWrite, h]

theorem selectWrite_wait0 {ctx : Context} (h : ctx.idleAt .wait0) (a : Nat) (v : Byte) :
    selectWrite ctx a v =
      if isCommand 0x5555 0xAA#8 a v then .unlock1 else if v = 0xF0#8 then .idExitShort else .ignoreAt0 := by
  simp [selectWrite, h.1, h.2, isCommand]

theorem selectWrite_wait1 {ctx : Context} (h : ctx.idleAt .wait1) (a : Nat) (v : Byte) :
    selectWrite ctx a v = if isCommand 0x2AAA 0x55#8 a v then .unlock2 else .abortAt1 := by
  simp [selectWrite, h.1, h.2, isCommand]

theorem selectWrite_wait2 {ctx : Context} (h : ctx.idleAt .wait2) (a : Nat) (v : Byte) :
    selectWrite ctx a v =
      if cmdAddr a ≠ 0x5555 then .abortAt2Addr
      else if v = 0x80#8 then .eraseSetup
      else if v = 0x90#8 then .idEntry
      else if v = 0xA0#8 then .programSetup
      else if v = 0xF0#8 then .idExitLong
      else .abortAt2Cmd := by
  simp [selectWrite, h.1, h.2]

theorem selectWrite_write3 {ctx : Context} (h : ctx.idleAt .write3) (a : Nat) (v : Byte) :
    selectWrite ctx a v = .program := by
  simp [selectWrite, h.1, h.2]

theorem selectWrite_erase3 {ctx : Context} (h : ctx.idleAt .erase3) (a : Nat) (v : Byte) :
    selectWrite ctx a v = if isCommand 0x5555 0xAA#8 a v then .eraseUnlock1 else .abortAtE3 := by
  simp [selectWrite, h.1, h.2, isCommand]

theorem selectWrite_erase4 {ctx : Context} (h : ctx.idleAt .erase4) (a : Nat) (v : Byte) :
    selectWrite ctx a v = if isCommand 0x2AAA 0x55#8 a v then .eraseUnlock2 else .abortAtE4 := by
  simp [selectWrite, h.1, h.2, isCommand]

theorem selectWrite_erase5 {ctx : Context} (h : ctx.idleAt .erase5) (a : Nat) (v : Byte) :
    selectWrite ctx a v =
      if isCommand 0x5555 0x10#8 a v then .chipErase else if v = 0x30#8 then .sectorErase else .eraseNone := by
  simp [selectWrite, h.1, h.2, isCommand]

/-! ### The compared word -/

theorem cmdAddr_lt (a : Nat) : cmdAddr a < 2 ^ 15 :=
  Nat.lt_of_le_of_lt Nat.and_le_right (by decide)

/-- `K = (CA << 8) | D` (R60). -/
theorem compareWord_toNat (a : Nat) (v : Byte) : (compareWord a v).toNat = (cmdAddr a <<< 8) ||| v.toNat := by
  unfold compareWord
  rw [BitVec.toNat_append, BitVec.toNat_ofNat, Nat.mod_eq_of_lt (cmdAddr_lt a)]

/-- `K[7:0] = D` (R60). -/
theorem compareWord_data (a : Nat) (v : Byte) : (compareWord a v).extractLsb' 0 8 = v := by
  unfold compareWord
  exact BitVec.extractLsb'_append_eq_right

/-- `K[22:8] = CA` (R60). -/
theorem compareWord_addr (a : Nat) (v : Byte) : (compareWord a v).extractLsb' 8 15 = BitVec.ofNat 15 (cmdAddr a) := by
  unfold compareWord
  exact BitVec.extractLsb'_append_eq_left

/-- A whole-word comparison compares the command address and the data. -/
theorem compareWord_eq_iff (ca : BitVec 15) (d : Byte) (a : Nat) (v : Byte) :
    compareWord a v = ca ++ d ↔ cmdAddr a = ca.toNat ∧ v = d := by
  constructor
  · intro h
    have h1 := compareWord_addr a v
    have h2 := compareWord_data a v
    rw [h, BitVec.extractLsb'_append_eq_left] at h1
    rw [h, BitVec.extractLsb'_append_eq_right] at h2
    refine ⟨?_, h2.symm⟩
    rw [h1, BitVec.toNat_ofNat, Nat.mod_eq_of_lt (cmdAddr_lt a)]
  · rintro ⟨h1, rfl⟩
    unfold compareWord
    rw [h1, BitVec.ofNat_toNat, BitVec.setWidth_eq]

/-- Masking the compared word masks its two parts. -/
theorem compareWord_and (mc : BitVec 15) (md : Byte) (a : Nat) (v : Byte) :
    compareWord a v &&& (mc ++ md) = (BitVec.ofNat 15 (cmdAddr a) &&& mc) ++ (v &&& md) := by
  unfold compareWord
  exact BitVec.and_append

end Sys2Proof
end

