-- ==== Sys2Proof/Laws/Memory.lean ====
section
/-! SUPPORT. The laws of the backing memory: what a read sees after a write, an erase and a replacement, that
every operation keeps the canonical form and the array's bounds, and that canonical memories with equal reads
are equal. -/

namespace Sys2Proof.Machine

open Memory

@[simp] theorem Memory.read_nil (a : Nat) : Memory.read [] a = unlisted := rfl

theorem Memory.read_cell (c : Host.Cell) (m : Memory) (a : Nat) :
    Memory.read (c :: m) a = if c.1 = a then c.2 else Memory.read m a := rfl

theorem Memory.wf_nil : Memory.wf [] := by simp [Memory.wf]

theorem Memory.wf_cell {c : Host.Cell} {m : Memory} :
    Memory.wf (c :: m) ↔ (∀ d ∈ m, c.1 < d.1) ∧ c.2 ≠ unlisted ∧ Memory.wf m := by
  simp only [Memory.wf, List.pairwise_cons, List.mem_cons, forall_eq_or_imp]
  tauto

/-- A byte below every listed address is not listed. -/
theorem Memory.read_below {m : Memory} {a : Nat} (h : ∀ c ∈ m, a < c.1) : m.read a = unlisted := by
  induction m with
  | nil => rfl
  | cons c m ih =>
    have hc : a < c.1 := h c (by simp)
    rw [Memory.read_cell, if_neg (by omega)]
    exact ih fun d hd => h d (by simp [hd])

theorem Memory.read_cons {m : Memory} {a : Nat} (v : Byte) (h : ∀ c ∈ m, a < c.1) (b : Nat) :
    (Memory.cons a v m).read b = if b = a then v else m.read b := by
  unfold Memory.cons
  by_cases hv : v = unlisted
  · rw [if_pos hv]
    split
    · next hb => rw [hb, Memory.read_below h, hv]
    · rfl
  · rw [if_neg hv, Memory.read_cell]
    simp only [eq_comm]

/-- A read after a write: the written byte at its address, every other byte as before. -/
theorem Memory.read_write {m : Memory} (h : m.wf) (a : Nat) (v : Byte) (b : Nat) :
    (m.write a v).read b = if b = a then v else m.read b := by
  induction m with
  | nil => exact Memory.read_cons v (by simp) b
  | cons c m ih =>
    obtain ⟨hlt, -, hm⟩ := Memory.wf_cell.mp h
    simp only [Memory.write]
    split
    · next hac =>
      refine Memory.read_cons v (fun d hd => ?_) b
      rcases List.mem_cons.mp hd with rfl | hd
      · exact hac
      · exact Nat.lt_trans hac (hlt d hd)
    · split
      · next _ hac =>
        rw [Memory.read_cons v (fun d hd => hac ▸ hlt d hd), Memory.read_cell, hac]
        by_cases hb : b = c.1
        · rw [if_pos hb, if_pos hb]
        · rw [if_neg hb, if_neg hb, if_neg (Ne.symm hb)]
      · next _ hac =>
        rw [Memory.read_cell, Memory.read_cell, ih hm]
        by_cases hb : c.1 = b
        · rw [if_pos hb, if_pos hb, if_neg (by omega)]
        · rw [if_neg hb, if_neg hb]

theorem Memory.mem_cons {a : Nat} {v : Byte} {m : Memory} {d : Host.Cell} (h : d ∈ Memory.cons a v m) :
    d = (a, v) ∨ d ∈ m := by
  unfold Memory.cons at h
  split at h
  · exact .inr h
  · simpa using h

theorem Memory.mem_write {m : Memory} {a : Nat} {v : Byte} {d : Host.Cell} (h : d ∈ m.write a v) :
    d = (a, v) ∨ d ∈ m := by
  induction m with
  | nil => exact Memory.mem_cons h
  | cons c m ih =>
    simp only [Memory.write] at h
    split at h
    · exact Memory.mem_cons h
    · split at h
      · rcases Memory.mem_cons h with h | h <;> simp [h]
      · rcases List.mem_cons.mp h with h | h
        · simp [h]
        · rcases ih h with h | h <;> simp [h]

theorem Memory.wf_cons {a : Nat} {v : Byte} {m : Memory} (hm : m.wf) (h : ∀ c ∈ m, a < c.1) :
    (Memory.cons a v m).wf := by
  unfold Memory.cons
  split
  · exact hm
  · next hv => exact Memory.wf_cell.mpr ⟨h, hv, hm⟩

/-- A write keeps the canonical form. -/
theorem Memory.wf_write {m : Memory} (h : m.wf) (a : Nat) (v : Byte) : (m.write a v).wf := by
  induction m with
  | nil => exact Memory.wf_cons h (by simp)
  | cons c m ih =>
    obtain ⟨hlt, hc, hm⟩ := Memory.wf_cell.mp h
    simp only [Memory.write]
    split
    · next hac =>
      refine Memory.wf_cons h fun d hd => ?_
      rcases List.mem_cons.mp hd with rfl | hd
      · exact hac
      · exact Nat.lt_trans hac (hlt d hd)
    · split
      · next _ hac => exact Memory.wf_cons hm fun d hd => hac ▸ hlt d hd
      · next h1 h2 =>
        refine Memory.wf_cell.mpr ⟨fun d hd => ?_, hc, ih hm⟩
        rcases Memory.mem_write hd with rfl | hd
        · simp only; omega
        · exact hlt d hd

/-- A write to a byte of the array keeps the bounds. -/
theorem Memory.within_write {m : Memory} {size a : Nat} (h : m.within size) (ha : a < size) (v : Byte) :
    (m.write a v).within size := by
  intro d hd
  rcases Memory.mem_write hd with rfl | hd
  · exact ha
  · exact h d hd

/-- A byte outside the array is not listed. -/
theorem Memory.read_outside {m : Memory} {size : Nat} (h : m.within size) {a : Nat} (ha : size ≤ a) :
    m.read a = unlisted := by
  induction m with
  | nil => rfl
  | cons c m ih =>
    have hc : c.1 < size := h c (by simp)
    rw [Memory.read_cell, if_neg (by omega)]
    exact ih fun d hd => h d (by simp [hd])

/-! ### Erase -/

/-- A read after an erase of a range: the erased byte in it, every other byte as before. -/
theorem Memory.read_eraseRange (m : Memory) (lo n b : Nat) :
    (m.eraseRange lo n).read b = if lo ≤ b ∧ b < lo + n then erasedByte else m.read b := by
  unfold Memory.eraseRange
  induction m with
  | nil => simp [unlisted, erasedByte]
  | cons c m ih =>
    rw [List.filter_cons, Memory.read_cell]
    by_cases hc : lo ≤ c.1 ∧ c.1 < lo + n
    · rw [if_neg (by simpa using hc), ih]
      by_cases hb : c.1 = b
      · subst hb; simp [hc]
      · rw [if_neg hb]
    · rw [if_pos (by simp; omega), Memory.read_cell, ih]
      by_cases hb : c.1 = b
      · subst hb; simp [hc]
      · rw [if_neg hb, if_neg hb]

theorem Memory.wf_eraseRange {m : Memory} (h : m.wf) (lo n : Nat) : (m.eraseRange lo n).wf :=
  ⟨h.1.filter _, fun c hc => h.2 c (List.mem_filter.mp hc).1⟩

theorem Memory.within_eraseRange {m : Memory} {size : Nat} (h : m.within size) (lo n : Nat) :
    (m.eraseRange lo n).within size :=
  fun c hc => h c (List.mem_filter.mp hc).1

/-! ### Equal reads, equal memories -/

theorem Memory.read_listed {c : Host.Cell} {m : Memory} (h : Memory.wf (c :: m)) : m.read c.1 = unlisted :=
  Memory.read_below fun d hd => (Memory.wf_cell.mp h).1 d hd

/-- Canonical memories that read the same are the same list. -/
theorem Memory.ext_read {m n : Memory} (hm : m.wf) (hn : n.wf) (h : ∀ a, m.read a = n.read a) : m = n := by
  induction m generalizing n with
  | nil =>
    cases n with
    | nil => rfl
    | cons d n =>
      have := h d.1
      rw [Memory.read_nil, Memory.read_cell, if_pos rfl] at this
      exact absurd this.symm (Memory.wf_cell.mp hn).2.1
  | cons c m ih =>
    obtain ⟨hcm, hc, hm'⟩ := Memory.wf_cell.mp hm
    cases n with
    | nil =>
      have := h c.1
      rw [Memory.read_nil, Memory.read_cell, if_pos rfl] at this
      exact absurd this hc
    | cons d n =>
      obtain ⟨hdn, hd, hn'⟩ := Memory.wf_cell.mp hn
      have hcd : c.1 = d.1 := by
        rcases Nat.lt_trichotomy c.1 d.1 with hlt | heq | hgt
        · have := h c.1
          rw [Memory.read_cell, if_pos rfl, Memory.read_below (m := d :: n)] at this
          · exact absurd this hc
          · intro e he
            rcases List.mem_cons.mp he with rfl | he
            · exact hlt
            · exact Nat.lt_trans hlt (hdn e he)
        · exact heq
        · have := h d.1
          rw [Memory.read_cell (c := d), if_pos rfl, Memory.read_below (m := c :: m)] at this
          · exact absurd this.symm hd
          · intro e he
            rcases List.mem_cons.mp he with rfl | he
            · exact hgt
            · exact Nat.lt_trans hgt (hcm e he)
      have hv : c.2 = d.2 := by simpa [Memory.read_cell, hcd] using h d.1
      have ht : m = n := by
        refine ih hm' hn' fun a => ?_
        by_cases ha : a = c.1
        · rw [ha, Memory.read_listed hm, hcd, Memory.read_listed hn]
        · have hac : ¬ c.1 = a := fun e => ha e.symm
          have hda : ¬ d.1 = a := fun e => ha (hcd.trans e).symm
          simpa [Memory.read_cell, hac, hda] using h a
      rw [ht, Prod.ext hcd hv]

/-! ### The loops of R153 and R154 -/

theorem Memory.wf_fillLoop {m : Memory} (h : m.wf) (lo : Nat) (v : Byte) (n : Nat) : (m.fillLoop lo v n).wf := by
  induction n with
  | zero => exact h
  | succ n ih => exact Memory.wf_write ih _ _

theorem Memory.read_fillLoop {m : Memory} (h : m.wf) (lo : Nat) (v : Byte) (n b : Nat) :
    (m.fillLoop lo v n).read b = if lo ≤ b ∧ b < lo + n then v else m.read b := by
  induction n with
  | zero => rw [if_neg (by omega)]; rfl
  | succ n ih =>
    simp only [Memory.fillLoop, Memory.read_write (Memory.wf_fillLoop h lo v n), ih]
    split <;> split <;> first | rfl | (split <;> first | rfl | omega) | omega

/-- The one-pass erase is the spec's loop of MemWrites (R153, R154). -/
theorem Memory.eraseRange_eq_fillLoop {m : Memory} (h : m.wf) (lo n : Nat) :
    m.eraseRange lo n = m.fillLoop lo erasedByte n :=
  Memory.ext_read (Memory.wf_eraseRange h lo n) (Memory.wf_fillLoop h lo _ n) fun a => by
    rw [Memory.read_eraseRange, Memory.read_fillLoop h]

/-! ### Images -/

theorem Memory.wf_ofCells (size : Nat) (cells : List Host.Cell) : (Memory.ofCells size cells).wf := by
  induction cells with
  | nil => exact Memory.wf_nil
  | cons c cells ih =>
    simp only [Memory.ofCells]
    split
    · exact Memory.wf_write ih _ _
    · exact ih

theorem Memory.within_ofCells (size : Nat) (cells : List Host.Cell) :
    (Memory.ofCells size cells).within size := by
  induction cells with
  | nil => simp [Memory.ofCells]
  | cons c cells ih =>
    simp only [Memory.ofCells]
    split
    · next hc => exact Memory.within_write ih hc _
    · exact ih

/-- A byte of the array reads as its first cell in the image; no other byte is listed. -/
theorem Memory.read_ofCells (size : Nat) (cells : List Host.Cell) (b : Nat) :
    (Memory.ofCells size cells).read b = if b < size then Memory.read cells b else unlisted := by
  induction cells with
  | nil => simp [Memory.ofCells]
  | cons c cells ih =>
    simp only [Memory.ofCells]
    split
    · next hc =>
      rw [Memory.read_write (Memory.wf_ofCells size cells), ih, Memory.read_cell]
      by_cases hb : c.1 = b
      · subst hb; simp [hc]
      · rw [if_neg hb, if_neg (fun e => hb e.symm)]
    · next hc =>
      rw [ih, Memory.read_cell]
      by_cases hb : c.1 = b
      · subst hb; simp [hc]
      · rw [if_neg hb]

/-- A canonical image of the array is taken as it is. -/
theorem Memory.ofCells_canonical {size : Nat} {m : Memory} (h : m.wf) (hin : m.within size) :
    Memory.ofCells size m = m :=
  Memory.ext_read (Memory.wf_ofCells size m) h fun a => by
    rw [Memory.read_ofCells]
    split
    · rfl
    · next ha => rw [Memory.read_outside hin (by omega)]

end Sys2Proof.Machine
end

