-- ==== Sys2Proof/Laws/State.lean ====
section
/-! SUPPORT. One lemma per field per update of State, each true by rfl, so that no proof unfolds a record
update. -/

namespace Sys2Proof.Machine

variable (s : State)

@[simp] theorem State.setStage_stage (st : Stage) : (s.setStage st).stage = st := rfl
@[simp] theorem State.setStage_softwareId (st : Stage) : (s.setStage st).softwareId = s.softwareId := rfl
@[simp] theorem State.setStage_busyUntilClock (st : Stage) : (s.setStage st).busyUntilClock = s.busyUntilClock := rfl
@[simp] theorem State.setStage_busyStatusByte (st : Stage) : (s.setStage st).busyStatusByte = s.busyStatusByte := rfl
@[simp] theorem State.setStage_mem (st : Stage) : (s.setStage st).mem = s.mem := rfl
@[simp] theorem State.setStage_bank (st : Stage) : (s.setStage st).bank = s.bank := rfl
@[simp] theorem State.setStage_cfg (st : Stage) : (s.setStage st).cfg = s.cfg := rfl
@[simp] theorem State.setStage_delaysEnabled (st : Stage) : (s.setStage st).delaysEnabled = s.delaysEnabled := rfl
@[simp] theorem State.setStage_clock (st : Stage) : (s.setStage st).clock = s.clock := rfl
@[simp] theorem State.setStage_script (st : Stage) : (s.setStage st).script = s.script := rfl
@[simp] theorem State.setStage_response (st : Stage) : (s.setStage st).response = s.response := rfl
@[simp] theorem State.setStage_draws (st : Stage) : (s.setStage st).draws = s.draws := rfl

@[simp] theorem State.setSoftwareId_stage (b : Bool) : (s.setSoftwareId b).stage = s.stage := rfl
@[simp] theorem State.setSoftwareId_softwareId (b : Bool) : (s.setSoftwareId b).softwareId = b := rfl
@[simp] theorem State.setSoftwareId_busyUntilClock (b : Bool) : (s.setSoftwareId b).busyUntilClock = s.busyUntilClock := rfl
@[simp] theorem State.setSoftwareId_busyStatusByte (b : Bool) : (s.setSoftwareId b).busyStatusByte = s.busyStatusByte := rfl
@[simp] theorem State.setSoftwareId_mem (b : Bool) : (s.setSoftwareId b).mem = s.mem := rfl
@[simp] theorem State.setSoftwareId_bank (b : Bool) : (s.setSoftwareId b).bank = s.bank := rfl
@[simp] theorem State.setSoftwareId_cfg (b : Bool) : (s.setSoftwareId b).cfg = s.cfg := rfl
@[simp] theorem State.setSoftwareId_delaysEnabled (b : Bool) : (s.setSoftwareId b).delaysEnabled = s.delaysEnabled := rfl
@[simp] theorem State.setSoftwareId_clock (b : Bool) : (s.setSoftwareId b).clock = s.clock := rfl
@[simp] theorem State.setSoftwareId_script (b : Bool) : (s.setSoftwareId b).script = s.script := rfl
@[simp] theorem State.setSoftwareId_response (b : Bool) : (s.setSoftwareId b).response = s.response := rfl
@[simp] theorem State.setSoftwareId_draws (b : Bool) : (s.setSoftwareId b).draws = s.draws := rfl

@[simp] theorem State.setBusy_stage (u : Nat) (x : Byte) : (s.setBusy u x).stage = s.stage := rfl
@[simp] theorem State.setBusy_softwareId (u : Nat) (x : Byte) : (s.setBusy u x).softwareId = s.softwareId := rfl
@[simp] theorem State.setBusy_busyUntilClock (u : Nat) (x : Byte) : (s.setBusy u x).busyUntilClock = u := rfl
@[simp] theorem State.setBusy_busyStatusByte (u : Nat) (x : Byte) : (s.setBusy u x).busyStatusByte = x := rfl
@[simp] theorem State.setBusy_mem (u : Nat) (x : Byte) : (s.setBusy u x).mem = s.mem := rfl
@[simp] theorem State.setBusy_bank (u : Nat) (x : Byte) : (s.setBusy u x).bank = s.bank := rfl
@[simp] theorem State.setBusy_cfg (u : Nat) (x : Byte) : (s.setBusy u x).cfg = s.cfg := rfl
@[simp] theorem State.setBusy_delaysEnabled (u : Nat) (x : Byte) : (s.setBusy u x).delaysEnabled = s.delaysEnabled := rfl
@[simp] theorem State.setBusy_clock (u : Nat) (x : Byte) : (s.setBusy u x).clock = s.clock := rfl
@[simp] theorem State.setBusy_script (u : Nat) (x : Byte) : (s.setBusy u x).script = s.script := rfl
@[simp] theorem State.setBusy_response (u : Nat) (x : Byte) : (s.setBusy u x).response = s.response := rfl
@[simp] theorem State.setBusy_draws (u : Nat) (x : Byte) : (s.setBusy u x).draws = s.draws := rfl

@[simp] theorem State.setStatus_stage (x : Byte) : (s.setStatus x).stage = s.stage := rfl
@[simp] theorem State.setStatus_softwareId (x : Byte) : (s.setStatus x).softwareId = s.softwareId := rfl
@[simp] theorem State.setStatus_busyUntilClock (x : Byte) : (s.setStatus x).busyUntilClock = s.busyUntilClock := rfl
@[simp] theorem State.setStatus_busyStatusByte (x : Byte) : (s.setStatus x).busyStatusByte = x := rfl
@[simp] theorem State.setStatus_mem (x : Byte) : (s.setStatus x).mem = s.mem := rfl
@[simp] theorem State.setStatus_bank (x : Byte) : (s.setStatus x).bank = s.bank := rfl
@[simp] theorem State.setStatus_cfg (x : Byte) : (s.setStatus x).cfg = s.cfg := rfl
@[simp] theorem State.setStatus_delaysEnabled (x : Byte) : (s.setStatus x).delaysEnabled = s.delaysEnabled := rfl
@[simp] theorem State.setStatus_clock (x : Byte) : (s.setStatus x).clock = s.clock := rfl
@[simp] theorem State.setStatus_script (x : Byte) : (s.setStatus x).script = s.script := rfl
@[simp] theorem State.setStatus_response (x : Byte) : (s.setStatus x).response = s.response := rfl
@[simp] theorem State.setStatus_draws (x : Byte) : (s.setStatus x).draws = s.draws := rfl

@[simp] theorem State.setMem_stage (m : Memory) : (s.setMem m).stage = s.stage := rfl
@[simp] theorem State.setMem_softwareId (m : Memory) : (s.setMem m).softwareId = s.softwareId := rfl
@[simp] theorem State.setMem_busyUntilClock (m : Memory) : (s.setMem m).busyUntilClock = s.busyUntilClock := rfl
@[simp] theorem State.setMem_busyStatusByte (m : Memory) : (s.setMem m).busyStatusByte = s.busyStatusByte := rfl
@[simp] theorem State.setMem_mem (m : Memory) : (s.setMem m).mem = m := rfl
@[simp] theorem State.setMem_bank (m : Memory) : (s.setMem m).bank = s.bank := rfl
@[simp] theorem State.setMem_cfg (m : Memory) : (s.setMem m).cfg = s.cfg := rfl
@[simp] theorem State.setMem_delaysEnabled (m : Memory) : (s.setMem m).delaysEnabled = s.delaysEnabled := rfl
@[simp] theorem State.setMem_clock (m : Memory) : (s.setMem m).clock = s.clock := rfl
@[simp] theorem State.setMem_script (m : Memory) : (s.setMem m).script = s.script := rfl
@[simp] theorem State.setMem_response (m : Memory) : (s.setMem m).response = s.response := rfl
@[simp] theorem State.setMem_draws (m : Memory) : (s.setMem m).draws = s.draws := rfl

@[simp] theorem State.setBank_stage (b : Nat) : (s.setBank b).stage = s.stage := rfl
@[simp] theorem State.setBank_softwareId (b : Nat) : (s.setBank b).softwareId = s.softwareId := rfl
@[simp] theorem State.setBank_busyUntilClock (b : Nat) : (s.setBank b).busyUntilClock = s.busyUntilClock := rfl
@[simp] theorem State.setBank_busyStatusByte (b : Nat) : (s.setBank b).busyStatusByte = s.busyStatusByte := rfl
@[simp] theorem State.setBank_mem (b : Nat) : (s.setBank b).mem = s.mem := rfl
@[simp] theorem State.setBank_bank (b : Nat) : (s.setBank b).bank = b := rfl
@[simp] theorem State.setBank_cfg (b : Nat) : (s.setBank b).cfg = s.cfg := rfl
@[simp] theorem State.setBank_delaysEnabled (b : Nat) : (s.setBank b).delaysEnabled = s.delaysEnabled := rfl
@[simp] theorem State.setBank_clock (b : Nat) : (s.setBank b).clock = s.clock := rfl
@[simp] theorem State.setBank_script (b : Nat) : (s.setBank b).script = s.script := rfl
@[simp] theorem State.setBank_response (b : Nat) : (s.setBank b).response = s.response := rfl
@[simp] theorem State.setBank_draws (b : Nat) : (s.setBank b).draws = s.draws := rfl

@[simp] theorem State.setDelays_stage (b : Bool) : (s.setDelays b).stage = s.stage := rfl
@[simp] theorem State.setDelays_softwareId (b : Bool) : (s.setDelays b).softwareId = s.softwareId := rfl
@[simp] theorem State.setDelays_busyUntilClock (b : Bool) : (s.setDelays b).busyUntilClock = s.busyUntilClock := rfl
@[simp] theorem State.setDelays_busyStatusByte (b : Bool) : (s.setDelays b).busyStatusByte = s.busyStatusByte := rfl
@[simp] theorem State.setDelays_mem (b : Bool) : (s.setDelays b).mem = s.mem := rfl
@[simp] theorem State.setDelays_bank (b : Bool) : (s.setDelays b).bank = s.bank := rfl
@[simp] theorem State.setDelays_cfg (b : Bool) : (s.setDelays b).cfg = s.cfg := rfl
@[simp] theorem State.setDelays_delaysEnabled (b : Bool) : (s.setDelays b).delaysEnabled = b := rfl
@[simp] theorem State.setDelays_clock (b : Bool) : (s.setDelays b).clock = s.clock := rfl
@[simp] theorem State.setDelays_script (b : Bool) : (s.setDelays b).script = s.script := rfl
@[simp] theorem State.setDelays_response (b : Bool) : (s.setDelays b).response = s.response := rfl
@[simp] theorem State.setDelays_draws (b : Bool) : (s.setDelays b).draws = s.draws := rfl

@[simp] theorem State.respond_stage (r : Response) : (s.respond r).stage = s.stage := rfl
@[simp] theorem State.respond_softwareId (r : Response) : (s.respond r).softwareId = s.softwareId := rfl
@[simp] theorem State.respond_busyUntilClock (r : Response) : (s.respond r).busyUntilClock = s.busyUntilClock := rfl
@[simp] theorem State.respond_busyStatusByte (r : Response) : (s.respond r).busyStatusByte = s.busyStatusByte := rfl
@[simp] theorem State.respond_mem (r : Response) : (s.respond r).mem = s.mem := rfl
@[simp] theorem State.respond_bank (r : Response) : (s.respond r).bank = s.bank := rfl
@[simp] theorem State.respond_cfg (r : Response) : (s.respond r).cfg = s.cfg := rfl
@[simp] theorem State.respond_delaysEnabled (r : Response) : (s.respond r).delaysEnabled = s.delaysEnabled := rfl
@[simp] theorem State.respond_clock (r : Response) : (s.respond r).clock = s.clock := rfl
@[simp] theorem State.respond_script (r : Response) : (s.respond r).script = s.script := rfl
@[simp] theorem State.respond_response (r : Response) : (s.respond r).response = r := rfl
@[simp] theorem State.respond_draws (r : Response) : (s.respond r).draws = s.draws := rfl

@[simp] theorem State.countDraw_stage : s.countDraw.stage = s.stage := rfl
@[simp] theorem State.countDraw_softwareId : s.countDraw.softwareId = s.softwareId := rfl
@[simp] theorem State.countDraw_busyUntilClock : s.countDraw.busyUntilClock = s.busyUntilClock := rfl
@[simp] theorem State.countDraw_busyStatusByte : s.countDraw.busyStatusByte = s.busyStatusByte := rfl
@[simp] theorem State.countDraw_mem : s.countDraw.mem = s.mem := rfl
@[simp] theorem State.countDraw_bank : s.countDraw.bank = s.bank := rfl
@[simp] theorem State.countDraw_cfg : s.countDraw.cfg = s.cfg := rfl
@[simp] theorem State.countDraw_delaysEnabled : s.countDraw.delaysEnabled = s.delaysEnabled := rfl
@[simp] theorem State.countDraw_clock : s.countDraw.clock = s.clock := rfl
@[simp] theorem State.countDraw_script : s.countDraw.script = s.script := rfl
@[simp] theorem State.countDraw_response : s.countDraw.response = s.response := rfl
@[simp] theorem State.countDraw_draws : s.countDraw.draws = s.draws + 1 := rfl

@[simp] theorem State.begin_stage (t : Nat) (rest : List Access) : (s.begin t rest).stage = s.stage := rfl
@[simp] theorem State.begin_softwareId (t : Nat) (rest : List Access) : (s.begin t rest).softwareId = s.softwareId := rfl
@[simp] theorem State.begin_busyUntilClock (t : Nat) (rest : List Access) : (s.begin t rest).busyUntilClock = s.busyUntilClock := rfl
@[simp] theorem State.begin_busyStatusByte (t : Nat) (rest : List Access) : (s.begin t rest).busyStatusByte = s.busyStatusByte := rfl
@[simp] theorem State.begin_mem (t : Nat) (rest : List Access) : (s.begin t rest).mem = s.mem := rfl
@[simp] theorem State.begin_bank (t : Nat) (rest : List Access) : (s.begin t rest).bank = s.bank := rfl
@[simp] theorem State.begin_cfg (t : Nat) (rest : List Access) : (s.begin t rest).cfg = s.cfg := rfl
@[simp] theorem State.begin_delaysEnabled (t : Nat) (rest : List Access) : (s.begin t rest).delaysEnabled = s.delaysEnabled := rfl
@[simp] theorem State.begin_clock (t : Nat) (rest : List Access) : (s.begin t rest).clock = t := rfl
@[simp] theorem State.begin_script (t : Nat) (rest : List Access) : (s.begin t rest).script = rest := rfl
@[simp] theorem State.begin_response (t : Nat) (rest : List Access) : (s.begin t rest).response = .nothing := rfl
@[simp] theorem State.begin_draws (t : Nat) (rest : List Access) : (s.begin t rest).draws = s.draws := rfl

@[simp] theorem State.abortCommand_stage : s.abortCommand.stage = .wait0 := rfl
@[simp] theorem State.abortCommand_softwareId : s.abortCommand.softwareId = s.softwareId := rfl
@[simp] theorem State.abortCommand_busyUntilClock : s.abortCommand.busyUntilClock = s.busyUntilClock := rfl
@[simp] theorem State.abortCommand_busyStatusByte : s.abortCommand.busyStatusByte = s.busyStatusByte := rfl
@[simp] theorem State.abortCommand_mem : s.abortCommand.mem = s.mem := rfl
@[simp] theorem State.abortCommand_bank : s.abortCommand.bank = s.bank := rfl
@[simp] theorem State.abortCommand_cfg : s.abortCommand.cfg = s.cfg := rfl
@[simp] theorem State.abortCommand_delaysEnabled : s.abortCommand.delaysEnabled = s.delaysEnabled := rfl
@[simp] theorem State.abortCommand_clock : s.abortCommand.clock = s.clock := rfl
@[simp] theorem State.abortCommand_script : s.abortCommand.script = s.script := rfl
@[simp] theorem State.abortCommand_response : s.abortCommand.response = s.response := rfl
@[simp] theorem State.abortCommand_draws : s.abortCommand.draws = s.draws := rfl

@[simp] theorem State.chipReset_stage : s.chipReset.stage = .wait0 := rfl
@[simp] theorem State.chipReset_softwareId : s.chipReset.softwareId = false := rfl
@[simp] theorem State.chipReset_busyUntilClock : s.chipReset.busyUntilClock = 0 := rfl
@[simp] theorem State.chipReset_busyStatusByte : s.chipReset.busyStatusByte = 0x00#8 := rfl
@[simp] theorem State.chipReset_mem : s.chipReset.mem = s.mem := rfl
@[simp] theorem State.chipReset_bank : s.chipReset.bank = s.bank := rfl
@[simp] theorem State.chipReset_cfg : s.chipReset.cfg = s.cfg := rfl
@[simp] theorem State.chipReset_delaysEnabled : s.chipReset.delaysEnabled = s.delaysEnabled := rfl
@[simp] theorem State.chipReset_clock : s.chipReset.clock = s.clock := rfl
@[simp] theorem State.chipReset_script : s.chipReset.script = s.script := rfl
@[simp] theorem State.chipReset_response : s.chipReset.response = s.response := rfl
@[simp] theorem State.chipReset_draws : s.chipReset.draws = s.draws := rfl

end Sys2Proof.Machine
end

