-- ==== Sys2Proof/Laws/Ops.lean ====
section
/-! SUPPORT. What each shared operation does, said once. -/

namespace Sys2Proof.Machine

theorem State.busy_iff (s : State) : s.busy = true ↔ s.clock < s.busyUntilClock := by simp [State.busy]

theorem State.not_busy_iff (s : State) : s.busy = false ↔ s.busyUntilClock ≤ s.clock := by simp [State.busy]

/-! ### StartBusy -/

/-- StartBusy with delays enabled (R170). -/
theorem State.startBusy_enabled {s : State} (h : s.delaysEnabled = true) (us : Nat) (d : Bool) :
    s.startBusy us d = s.setBusy (s.clock + busyTicks s.cfg us) (startStatus s.cfg d) := by
  simp [State.startBusy, h]

/-- StartBusy with delays disabled (R171). -/
theorem State.startBusy_disabled {s : State} (h : s.delaysEnabled = false) (us : Nat) (d : Bool) :
    s.startBusy us d = s := by
  simp [State.startBusy, h]

/-- All that StartBusy can do. -/
theorem State.startBusy_eq (s : State) (us : Nat) (d : Bool) :
    s.startBusy us d =
      s.setBusy (if s.delaysEnabled then s.clock + busyTicks s.cfg us else s.busyUntilClock)
        (if s.delaysEnabled then startStatus s.cfg d else s.busyStatusByte) := by
  unfold State.startBusy
  split <;> rfl

/-! ### The memory changes -/

/-- All that PROGRAM's memory change can do. -/
theorem State.programByte_eq (s : State) (a : Nat) (v : Byte) :
    s.programByte a v = s.setMem (if a < s.cfg.flashSize then s.mem.write a (s.mem.read a &&& v) else s.mem) := by
  unfold State.programByte
  split <;> rfl

theorem State.eraseChip_eq (s : State) : s.eraseChip = s.setMem (s.mem.eraseRange 0 s.cfg.flashSize) := rfl

/-- All that SECTOR_ERASE's memory change can do. -/
theorem State.eraseSector_eq (s : State) (a : Nat) :
    s.eraseSector a =
      s.setMem (if sectorInBounds s.cfg a then s.mem.eraseRange (sectorOffset s.cfg a) sectorSize else s.mem) := by
  unfold State.eraseSector
  split <;> rfl

/-! ### The chip read -/

/-- All that a chip read can do to the state: flip the toggle bit, and that only while busy and not in
software-ID mode (R48, R80). -/
theorem chipReadState_eq (s : State) :
    chipReadState s =
      if s.softwareId = false ∧ s.busy = true then s.setStatus (toggledStatus s.cfg s.busyStatusByte) else s := by
  unfold chipReadState selectRead State.context readStatusState
  cases s.softwareId <;> cases s.busy <;> rfl

/-- The result of a chip read (R80 to R83). -/
theorem chipReadResult_eq (s : State) (a : Nat) :
    chipReadResult s a =
      if s.softwareId = true then .present (idByte s.cfg a)
      else if s.busy = true then .present (toggledStatus s.cfg s.busyStatusByte)
      else .absent := by
  unfold chipReadResult selectRead State.context
  cases s.softwareId <;> cases s.busy <;> rfl

/-! ### The bank -/

/-- A shifted bank has `BANK_BITS` bits (R192). -/
theorem shiftedBank_le (c : Config) (bank b : Nat) : shiftedBank c bank b ≤ bankMask c :=
  Nat.and_le_right

/-- A drawn bank has `BANK_BITS` bits (R232). -/
theorem State.drawnBank_le (s : State) : s.drawnBank ≤ bankMask s.cfg := by
  have : s.drawnBank < 2 ^ s.cfg.bankBits := Nat.mod_lt _ (Nat.two_pow_pos _)
  unfold bankMask
  omega

/-! ### Snapshots -/

/-- The pairs that R23 allows are the stages. -/
theorem stageOfPair_stage (st : Stage) : stageOfPair st.mode st.cycle = some st := by
  cases st <;> rfl

theorem stageOfPair_some {m : Mode} {c : Nat} {st : Stage} (h : stageOfPair m c = some st) :
    st.mode = m ∧ st.cycle = c := by
  unfold stageOfPair at h
  split at h <;> first | (cases h; exact ⟨rfl, rfl⟩) | cases h

/-- All that a restore can do when it is not refused (R34). -/
theorem State.restore_next {s t : State} {saved : Snapshot} (h : s.restore saved = .next t) :
    ∃ st, stageOfPair saved.mode saved.cycle = some st ∧ saved.bank ≤ bankMask s.cfg ∧
      t = { s with
        stage := st, softwareId := saved.softwareId, busyUntilClock := saved.busyUntilClock,
        busyStatusByte := saved.busyStatusByte, mem := Memory.ofCells s.cfg.flashSize saved.image,
        bank := saved.bank } := by
  unfold State.restore at h
  split at h
  · cases h
  · next st hst =>
    split at h
    · next hb => exact ⟨st, hst, hb, by cases h; rfl⟩
    · cases h

end Sys2Proof.Machine
end

