-- ==== Sys2Proof/Laws/Exec.lean ====
section
/-! SUPPORT. What the meanings, `chipWrite`, `perform` and `step` answer, said once each. -/

namespace Sys2Proof.Machine

/-! ### The meanings as next states -/

/-- The state after PROGRAM (R130, R131). -/
theorem execProgram_eq (a : Nat) (v : Byte) (s : State) :
    execProgram a v s =
      .next (if a < s.cfg.flashSize ∨ s.cfg.oobStartsBusy = true then
          ((s.programByte a v).startBusy s.cfg.programDelayUs (programDataBit v)).abortCommand
        else (s.programByte a v).abortCommand) := by
  unfold execProgram
  split <;> rfl

/-- The state after SECTOR_ERASE (R154, R155). -/
theorem execSectorErase_eq (a : Nat) (s : State) :
    execSectorErase a s =
      .next (if sectorInBounds s.cfg a ∨ s.cfg.oobStartsBusy = true then
          ((s.eraseSector a).startBusy s.cfg.sectorEraseDelayUs eraseDataBit).abortCommand
        else (s.eraseSector a).abortCommand) := by
  unfold execSectorErase
  split <;> rfl

/-- `chipWrite` is what `exec` does with the instruction the decoder selects (R63). -/
theorem exec_selected (a : Nat) (v : Byte) (s : State) :
    exec ((selectWrite s.context a v).instr a v) s = chipWrite a v s := by
  unfold chipWrite
  cases selectWrite s.context a v <;> rfl

/-- `ChipRead` is what `exec` does with the instruction the read selection picks (R80). -/
theorem exec_selectedRead (a : Nat) (s : State) :
    exec ((selectRead s.context).instr a) s =
      .next ((chipReadState s).respond (.chip (chipReadResult s a))) := by
  unfold chipReadState chipReadResult
  cases selectRead s.context <;> rfl

/-- A chip write while busy changes nothing (R174). -/
theorem chipWrite_busy {s : State} (h : s.busy = true) (a : Nat) (v : Byte) : chipWrite a v s = .next s := by
  unfold chipWrite
  rw [selectWrite_busy (ctx := s.context) h]
  rfl

/-- All that a chip write can do: nothing; or, when the chip is not busy, move the stage only, set or clear the
software-ID flag at its commands, program at `write3`, or erase at `erase5`. -/
theorem chipWrite_cases {a : Nat} {v : Byte} {s t : State} (h : chipWrite a v s = .next t) :
    t = s ∨ (s.busy = false ∧
      ((∃ st, t = s.setStage st) ∨
       (s.stage = .wait2 ∧ isCommand 0x5555 0x90#8 a v ∧ t = (s.setSoftwareId true).abortCommand) ∨
       ((s.stage = .wait0 ∧ v = 0xF0#8 ∨ s.stage = .wait2 ∧ isCommand 0x5555 0xF0#8 a v) ∧
         t = (s.setSoftwareId false).abortCommand) ∨
       (s.stage = .write3 ∧ execProgram a v s = .next t) ∨
       (s.stage = .erase5 ∧ isCommand 0x5555 0x10#8 a v ∧ execChipErase s = .next t) ∨
       (s.stage = .erase5 ∧ v = 0x30#8 ∧ execSectorErase a s = .next t))) := by
  cases hb : s.busy with
  | true => rw [chipWrite_busy hb] at h; cases h; exact .inl rfl
  | false =>
    unfold chipWrite at h
    cases hst : s.stage with
    | wait0 =>
      rw [selectWrite_wait0 (ctx := s.context) ⟨hb, hst⟩] at h
      by_cases h1 : isCommand 0x5555 0xAA#8 a v
      · rw [if_pos h1] at h; cases h; exact .inr ⟨rfl, .inl ⟨_, rfl⟩⟩
      · rw [if_neg h1] at h
        by_cases h2 : v = 0xF0#8
        · rw [if_pos h2] at h; cases h; exact .inr ⟨rfl, .inr (.inr (.inl ⟨.inl ⟨rfl, h2⟩, rfl⟩))⟩
        · rw [if_neg h2] at h; cases h; exact .inl rfl
    | wait1 =>
      rw [selectWrite_wait1 (ctx := s.context) ⟨hb, hst⟩] at h
      by_cases h1 : isCommand 0x2AAA 0x55#8 a v
      · rw [if_pos h1] at h; cases h; exact .inr ⟨rfl, .inl ⟨_, rfl⟩⟩
      · rw [if_neg h1] at h; cases h; exact .inr ⟨rfl, .inl ⟨_, rfl⟩⟩
    | wait2 =>
      rw [selectWrite_wait2 (ctx := s.context) ⟨hb, hst⟩] at h
      by_cases h1 : cmdAddr a ≠ 0x5555
      · rw [if_pos h1] at h; cases h; exact .inr ⟨rfl, .inl ⟨_, rfl⟩⟩
      · rw [if_neg h1] at h
        by_cases h2 : v = 0x80#8
        · rw [if_pos h2] at h; cases h; exact .inr ⟨rfl, .inl ⟨_, rfl⟩⟩
        · rw [if_neg h2] at h
          by_cases h3 : v = 0x90#8
          · rw [if_pos h3] at h; cases h
            exact .inr ⟨rfl, .inr (.inl ⟨rfl, ⟨not_not.mp h1, h3⟩, rfl⟩)⟩
          · rw [if_neg h3] at h
            by_cases h4 : v = 0xA0#8
            · rw [if_pos h4] at h; cases h; exact .inr ⟨rfl, .inl ⟨_, rfl⟩⟩
            · rw [if_neg h4] at h
              by_cases h5 : v = 0xF0#8
              · rw [if_pos h5] at h; cases h
                exact .inr ⟨rfl, .inr (.inr (.inl ⟨.inr ⟨rfl, not_not.mp h1, h5⟩, rfl⟩))⟩
              · rw [if_neg h5] at h; cases h; exact .inr ⟨rfl, .inl ⟨_, rfl⟩⟩
    | write3 =>
      rw [selectWrite_write3 (ctx := s.context) ⟨hb, hst⟩] at h
      exact .inr ⟨rfl, .inr (.inr (.inr (.inl ⟨rfl, h⟩)))⟩
    | erase3 =>
      rw [selectWrite_erase3 (ctx := s.context) ⟨hb, hst⟩] at h
      by_cases h1 : isCommand 0x5555 0xAA#8 a v
      · rw [if_pos h1] at h; cases h; exact .inr ⟨rfl, .inl ⟨_, rfl⟩⟩
      · rw [if_neg h1] at h; cases h; exact .inr ⟨rfl, .inl ⟨_, rfl⟩⟩
    | erase4 =>
      rw [selectWrite_erase4 (ctx := s.context) ⟨hb, hst⟩] at h
      by_cases h1 : isCommand 0x2AAA 0x55#8 a v
      · rw [if_pos h1] at h; cases h; exact .inr ⟨rfl, .inl ⟨_, rfl⟩⟩
      · rw [if_neg h1] at h; cases h; exact .inr ⟨rfl, .inl ⟨_, rfl⟩⟩
    | erase5 =>
      rw [selectWrite_erase5 (ctx := s.context) ⟨hb, hst⟩] at h
      by_cases h1 : isCommand 0x5555 0x10#8 a v
      · rw [if_pos h1] at h; exact .inr ⟨rfl, .inr (.inr (.inr (.inr (.inl ⟨rfl, h1, h⟩))))⟩
      · rw [if_neg h1] at h
        by_cases h2 : v = 0x30#8
        · rw [if_pos h2] at h; exact .inr ⟨rfl, .inr (.inr (.inr (.inr (.inr ⟨rfl, h2, h⟩))))⟩
        · rw [if_neg h2] at h; cases h; exact .inr ⟨rfl, .inl ⟨_, rfl⟩⟩

/-- What a window read returns (R194), and the state after it but for the response. -/
theorem execWindowRead_eq (h : Nat) (s : State) :
    execWindowRead h s =
      .next (match chipReadResult s (s.flatOf h) with
        | .present b => (chipReadState s).respond (.byte b)
        | .absent =>
          if s.flatOf h < s.cfg.flashSize then (chipReadState s).respond (.byte (s.mem.read (s.flatOf h)))
          else (chipReadState s).countDraw.respond (.byte s.drawnByte)) := by
  unfold execWindowRead
  cases chipReadResult s (s.flatOf h) with
  | present b => rfl
  | absent => dsimp only; split <;> rfl

/-! ### The step -/

theorem step_illFormed {s : State} (h : ¬ s.cfg.wf) : step s = .refused .illFormedConfig := if_neg h

theorem step_idle {s : State} (h : s.cfg.wf) (hs : s.script = []) : step s = .next s := by
  unfold step checkedPerform performNext
  rw [if_pos h, hs]

/-- A step performs the next operation. -/
theorem step_perform {s : State} {acc : Access} {rest : List Access} (h : s.cfg.wf)
    (hs : s.script = acc :: rest) : step s = perform acc.op (s.begin acc.t rest) := by
  unfold step checkedPerform performNext
  rw [if_pos h, hs]

/-- A bus cycle that decodes is the execution of its instruction. -/
theorem performCycle_ok {s : State} {c : Cycle} {i : Instr} (h : decode s.cfg s.context c = .ok i) :
    performCycle c s = exec i s := by
  unfold performCycle
  rw [h]

/-- All that a step can do. -/
theorem step_next {s t : State} (h : step s = .next t) :
    s.cfg.wf ∧ ((s.script = [] ∧ t = s) ∨
      ∃ acc rest, s.script = acc :: rest ∧ perform acc.op (s.begin acc.t rest) = .next t) := by
  by_cases hw : s.cfg.wf
  · refine ⟨hw, ?_⟩
    cases hs : s.script with
    | nil => rw [step_idle hw hs] at h; cases h; exact .inl ⟨rfl, rfl⟩
    | cons acc rest => rw [step_perform hw hs] at h; exact .inr ⟨acc, rest, rfl, h⟩
  · rw [step_illFormed hw] at h; cases h

/-- All that a bus cycle can do: a chip write, a chip read, a bank shift, a window read, or nothing. -/
theorem performCycle_cases (c : Cycle) (s : State) :
    (∃ a v, performCycle c s = chipWrite a v s) ∨
    (∃ a, performCycle c s = .next ((chipReadState s).respond (.chip (chipReadResult s a)))) ∨
    (∃ v, performCycle c s = execBankShift v s) ∨
    (∃ h, performCycle c s = execWindowRead h s) ∨
    performCycle c s = .next s := by
  cases c with
  | cw a v => exact .inl ⟨a, v, by rw [performCycle_ok rfl, exec_selected]⟩
  | cr a => exact .inr (.inl ⟨a, by rw [performCycle_ok rfl, exec_selectedRead]⟩)
  | bw h v =>
    by_cases hl : s.cfg.inLower h
    · exact .inl ⟨s.flatOf h, v, by
        rw [performCycle_ok (i := .flashForward h v) (by simp only [decode, if_pos hl])]; rfl⟩
    · by_cases hu : s.cfg.inUpper h
      · exact .inr (.inr (.inl ⟨v, by
          rw [performCycle_ok (i := .bankShift h v) (by simp only [decode, if_neg hl, if_pos hu])]; rfl⟩))
      · exact .inr (.inr (.inr (.inr (by
          unfold performCycle; simp only [decode, if_neg hl, if_neg hu]))))
  | br h =>
    by_cases hw : s.cfg.inWindow h
    · exact .inr (.inr (.inr (.inl ⟨h, by
        rw [performCycle_ok (i := .windowRead h) (by simp only [decode, if_pos hw])]; rfl⟩)))
    · exact .inr (.inr (.inr (.inr (by unfold performCycle; simp only [decode, if_neg hw]))))

/-! ### Several steps -/

theorem steps_one (s : State) : steps 1 s = step s := by
  simp only [steps]
  cases step s <;> rfl

theorem steps_succ {s t : State} (n : Nat) (h : step s = .next t) : steps (n + 1) s = steps n t := by
  simp only [steps, h]

/-- The first of several steps that end in a next state. -/
theorem steps_split {n : Nat} {s u : State} (h : steps (n + 1) s = .next u) :
    ∃ t, step s = .next t ∧ steps n t = .next u := by
  cases hs : step s with
  | next t => exact ⟨t, rfl, by rw [← steps_succ n hs]; exact h⟩
  | fault r => cases r
  | refused r => simp only [steps, hs] at h; cases h

/-- A chip write as a step. -/
theorem step_chipWrite {s : State} {t a : Nat} {v : Byte} {rest : List Access} (h : s.cfg.wf)
    (hs : s.script = ⟨t, .cycle (.cw a v)⟩ :: rest) : step s = chipWrite a v (s.begin t rest) := by
  rw [step_perform h hs, ← exec_selected]
  exact performCycle_ok (c := .cw a v) rfl

/-- An accepted chip write at stage `st` as a step. -/
theorem step_write_idle {s : State} {t a : Nat} {v : Byte} {rest : List Access} (h : s.cfg.wf)
    (hs : s.script = ⟨t, .cycle (.cw a v)⟩ :: rest) (hb : s.busyUntilClock ≤ t) :
    step s = exec ((selectWrite ⟨s.stage, false, s.softwareId⟩ a v).instr a v) (s.begin t rest) := by
  have hc : (s.begin t rest).context = ⟨s.stage, false, s.softwareId⟩ := by
    unfold State.context State.busy State.begin
    simp [Nat.not_lt.mpr hb]
  rw [step_chipWrite h hs, ← exec_selected, hc]

end Sys2Proof.Machine
end

