-- ==== Sys2Proof/Laws/PerInstr.lean ====
section
/-! SUPPORT. The per-instruction family FixedBits: a well-formed instruction's cycle has the fixed bits of its
row of the opcode table (30_encoding.md R60). -/

namespace Sys2Proof.Laws.FixedBits

/-- The cycle is a chip write whose compared word has the value `pat` under `mask`. -/
def hasBits (pat mask : BitVec 23) : Cycle → Prop
  | .cw a v => compareWord a v &&& mask = pat
  | .cr _ => False
  | .bw _ _ => False
  | .br _ => False

/-- The fixed bits of an instruction's row: `match` and `mask` for a `CW` row; the other formats have none. -/
def fixedBits : Instr → Option (BitVec 23 × BitVec 23)
  | .busyIgnore _ _ => some (0x000000#23, 0x000000#23)
  | .unlock1 _ _ => some (0x5555AA#23, 0x7FFFFF#23)
  | .idExitShort _ _ => some (0x0000F0#23, 0x0000FF#23)
  | .ignoreAt0 _ _ => some (0x000000#23, 0x000000#23)
  | .unlock2 _ _ => some (0x2AAA55#23, 0x7FFFFF#23)
  | .abortAt1 _ _ => some (0x000000#23, 0x000000#23)
  | .eraseSetup _ _ => some (0x555580#23, 0x7FFFFF#23)
  | .idEntry _ _ => some (0x555590#23, 0x7FFFFF#23)
  | .programSetup _ _ => some (0x5555A0#23, 0x7FFFFF#23)
  | .idExitLong _ _ => some (0x5555F0#23, 0x7FFFFF#23)
  | .abortAt2Cmd _ _ => some (0x555500#23, 0x7FFF00#23)
  | .abortAt2Addr _ _ => some (0x000000#23, 0x000000#23)
  | .program _ _ => some (0x000000#23, 0x000000#23)
  | .eraseUnlock1 _ _ => some (0x5555AA#23, 0x7FFFFF#23)
  | .abortAtE3 _ _ => some (0x000000#23, 0x000000#23)
  | .eraseUnlock2 _ _ => some (0x2AAA55#23, 0x7FFFFF#23)
  | .abortAtE4 _ _ => some (0x000000#23, 0x000000#23)
  | .chipErase _ _ => some (0x555510#23, 0x7FFFFF#23)
  | .sectorErase _ _ => some (0x000030#23, 0x0000FF#23)
  | .eraseNone _ _ => some (0x000000#23, 0x000000#23)
  | .readId _ => none
  | .readStatus _ => none
  | .readArray _ => none
  | .flashForward _ _ => none
  | .bankShift _ _ => none
  | .windowRead _ => none

/-- A well-formed instruction of a `CW` row has the row's fixed bits. -/
def Statement (i : Instr) : Prop :=
  ∀ c : Config, i.wellFormed c = true → ∀ pat mask, fixedBits i = some (pat, mask) → hasBits pat mask (encode i)

/-- A row that fixes nothing. -/
theorem free (a : Nat) (v : Byte) : compareWord a v &&& 0x000000#23 = 0x000000#23 := BitVec.and_zero

/-- A row that fixes the whole word. -/
theorem whole {ca : BitVec 15} {d : Byte} {a : Nat} {v : Byte} (h : isCommand ca.toNat d a v) :
    compareWord a v &&& 0x7FFFFF#23 = ca ++ d := by
  rw [(compareWord_eq_iff ca d a v).mpr h]
  exact BitVec.and_allOnes

/-- A row that fixes the data byte. -/
theorem data (a : Nat) (v : Byte) : compareWord a v &&& 0x0000FF#23 = 0#15 ++ v := by
  have := compareWord_and 0#15 0xFF#8 a v
  rw [BitVec.and_zero, show (0xFF#8 : Byte) = BitVec.allOnes 8 from rfl, BitVec.and_allOnes] at this
  exact this

/-- A row that fixes the command address. -/
theorem addr (a : Nat) (v : Byte) : compareWord a v &&& 0x7FFF00#23 = BitVec.ofNat 15 (cmdAddr a) ++ 0#8 := by
  have := compareWord_and 0x7FFF#15 0#8 a v
  rw [BitVec.and_zero, show (0x7FFF#15) = BitVec.allOnes 15 from rfl, BitVec.and_allOnes] at this
  exact this

theorem busyIgnore (a : Nat) (v : Byte) : Statement (.busyIgnore a v) := by
  rintro c - p m ⟨⟩; exact free a v
theorem unlock1 (a : Nat) (v : Byte) : Statement (.unlock1 a v) := by
  rintro c h p m ⟨⟩; exact whole (ca := 0x5555#15) (of_decide_eq_true h)
theorem idExitShort (a : Nat) (v : Byte) : Statement (.idExitShort a v) := by
  rintro c h p m ⟨⟩; cases of_decide_eq_true h; exact data a _
theorem ignoreAt0 (a : Nat) (v : Byte) : Statement (.ignoreAt0 a v) := by
  rintro c - p m ⟨⟩; exact free a v
theorem unlock2 (a : Nat) (v : Byte) : Statement (.unlock2 a v) := by
  rintro c h p m ⟨⟩; exact whole (ca := 0x2AAA#15) (of_decide_eq_true h)
theorem abortAt1 (a : Nat) (v : Byte) : Statement (.abortAt1 a v) := by
  rintro c - p m ⟨⟩; exact free a v
theorem eraseSetup (a : Nat) (v : Byte) : Statement (.eraseSetup a v) := by
  rintro c h p m ⟨⟩; exact whole (ca := 0x5555#15) (of_decide_eq_true h)
theorem idEntry (a : Nat) (v : Byte) : Statement (.idEntry a v) := by
  rintro c h p m ⟨⟩; exact whole (ca := 0x5555#15) (of_decide_eq_true h)
theorem programSetup (a : Nat) (v : Byte) : Statement (.programSetup a v) := by
  rintro c h p m ⟨⟩; exact whole (ca := 0x5555#15) (of_decide_eq_true h)
theorem idExitLong (a : Nat) (v : Byte) : Statement (.idExitLong a v) := by
  rintro c h p m ⟨⟩; exact whole (ca := 0x5555#15) (of_decide_eq_true h)
theorem abortAt2Cmd (a : Nat) (v : Byte) : Statement (.abortAt2Cmd a v) := by
  rintro c h p m ⟨⟩
  show compareWord a v &&& 0x7FFF00#23 = 0x555500#23
  rw [addr, (of_decide_eq_true h).1]; rfl
theorem abortAt2Addr (a : Nat) (v : Byte) : Statement (.abortAt2Addr a v) := by
  rintro c - p m ⟨⟩; exact free a v
theorem program (a : Nat) (v : Byte) : Statement (.program a v) := by
  rintro c - p m ⟨⟩; exact free a v
theorem eraseUnlock1 (a : Nat) (v : Byte) : Statement (.eraseUnlock1 a v) := by
  rintro c h p m ⟨⟩; exact whole (ca := 0x5555#15) (of_decide_eq_true h)
theorem abortAtE3 (a : Nat) (v : Byte) : Statement (.abortAtE3 a v) := by
  rintro c - p m ⟨⟩; exact free a v
theorem eraseUnlock2 (a : Nat) (v : Byte) : Statement (.eraseUnlock2 a v) := by
  rintro c h p m ⟨⟩; exact whole (ca := 0x2AAA#15) (of_decide_eq_true h)
theorem abortAtE4 (a : Nat) (v : Byte) : Statement (.abortAtE4 a v) := by
  rintro c - p m ⟨⟩; exact free a v
theorem chipErase (a : Nat) (v : Byte) : Statement (.chipErase a v) := by
  rintro c h p m ⟨⟩; exact whole (ca := 0x5555#15) (of_decide_eq_true h)
theorem sectorErase (a : Nat) (v : Byte) : Statement (.sectorErase a v) := by
  rintro c h p m ⟨⟩; cases of_decide_eq_true h; exact data a _
theorem eraseNone (a : Nat) (v : Byte) : Statement (.eraseNone a v) := by
  rintro c - p m ⟨⟩; exact free a v
theorem readId (a : Nat) : Statement (.readId a) := by rintro c - p m ⟨⟩
theorem readStatus (a : Nat) : Statement (.readStatus a) := by rintro c - p m ⟨⟩
theorem readArray (a : Nat) : Statement (.readArray a) := by rintro c - p m ⟨⟩
theorem flashForward (h : Nat) (v : Byte) : Statement (.flashForward h v) := by rintro c - p m ⟨⟩
theorem bankShift (h : Nat) (v : Byte) : Statement (.bankShift h v) := by rintro c - p m ⟨⟩
theorem windowRead (h : Nat) : Statement (.windowRead h) := by rintro c - p m ⟨⟩

end Sys2Proof.Laws.FixedBits
end

