-- ==== Sys2Proof/Tests/Slice0.lean ====
section
/-! SUPPORT. Tests: the checks that refuse ill-formed terms, decoding from written-out words, the vectors of
95_test_vectors.md, and a concrete state for the hypotheses of every statement that has some. -/

namespace Sys2Proof.Machine.Test

/-! ### Helpers -/

/-- The `CW` cycle of a compared word `K` (R60): `K[22:8]` is the address, `K[7:0]` the data. -/
def cwOf (k : BitVec 23) : Cycle := .cw (k.extractLsb' 8 15).toNat (k.extractLsb' 0 8)

/-- An idle chip of EX at stage `st` and clock `t`. -/
def chip (st : Stage) (t : Nat) : State := { State.powerOn Config.ex true [] 0 with stage := st, clock := t }

/-- A busy chip of EX at clock `t` with deadline 1016 and status byte `status`. -/
def busyChip (t : Nat) (status : Byte) : State :=
  { chip .wait0 t with busyUntilClock := 1016, busyStatusByte := status }

/-- A chip of EX with a script to perform. -/
def scripted (st : Stage) (ops : List Access) : State := { chip st 0 with script := ops }

/-- What a test looks at: the next state, if there is one. -/
def nextOf : Out → Option State
  | .next s => some s
  | _ => none

/-- The chip fields of a next state, as 95_test_vectors.md writes them. -/
def fields (o : Out) : Option (Stage × Bool × Nat × Byte) :=
  (nextOf o).map fun s => (s.stage, s.softwareId, s.busyUntilClock, s.busyStatusByte)

/-- One byte of the array of a next state. -/
def byteAt (o : Out) (a : Nat) : Option Byte := (nextOf o).map fun s => s.mem.read a

/-- The bank of a next state. -/
def bankOf (o : Out) : Option Nat := (nextOf o).map fun s => s.bank

/-- What a next state returned. -/
def responseOf (o : Out) : Option Response := (nextOf o).map fun s => s.response

/-- The idle context at a stage. -/
def at_ (st : Stage) : Context := ⟨st, false, false⟩

/-! ### Ill-formed terms are refused: configurations (R7) -/

theorem test_wf_ex : Config.ex.wf := by decide
theorem test_wf_flashSize : ¬ { Config.ex with flashSize := 0 }.wf := by decide
theorem test_wf_split : ¬ { Config.ex with split := 0x8001 }.wf ∧ { Config.ex with split := 0x8000 }.wf := by decide
theorem test_wf_bankBits : ¬ { Config.ex with bankBits := 0 }.wf := by decide
theorem test_wf_dataPollBit : ¬ { Config.ex with dataPollBit := 8 }.wf := by decide
theorem test_wf_toggleBit : ¬ { Config.ex with toggleBit := 8 }.wf := by decide
theorem test_wf_bits_distinct : ¬ { Config.ex with toggleBit := 7 }.wf := by decide
theorem test_wf_shiftDataBit : ¬ { Config.ex with shiftDataBit := 8 }.wf := by decide
theorem test_wf_sectorMask : ¬ { Config.ex with sectorMask := 0x7F800 }.wf := by decide
theorem test_wf_clockRate : ¬ { Config.ex with clockRate := 0 }.wf := by decide
theorem test_refused_illFormed :
    step { chip .wait0 0 with cfg := { Config.ex with bankBits := 0 } } = .refused .illFormedConfig := rfl

/-! ### Ill-formed terms are refused: instructions -/

theorem test_wf_unlocks :
    (Instr.unlock1 0x5555 0xAB#8).wellFormed Config.ex = false ∧
    (Instr.unlock1 0x5554 0xAA#8).wellFormed Config.ex = false ∧
    (Instr.unlock2 0x5555 0x55#8).wellFormed Config.ex = false ∧
    (Instr.eraseUnlock1 0x2AAA 0xAA#8).wellFormed Config.ex = false ∧
    (Instr.eraseUnlock2 0x2AAA 0x54#8).wellFormed Config.ex = false := by decide
theorem test_wf_commands :
    (Instr.eraseSetup 0x5555 0x81#8).wellFormed Config.ex = false ∧
    (Instr.idEntry 0x2AAA 0x90#8).wellFormed Config.ex = false ∧
    (Instr.programSetup 0x5556 0xA0#8).wellFormed Config.ex = false ∧
    (Instr.idExitLong 0x1234 0xF0#8).wellFormed Config.ex = false ∧
    (Instr.idExitShort 0x1234 0xF1#8).wellFormed Config.ex = false ∧
    (Instr.chipErase 0x1234 0x10#8).wellFormed Config.ex = false ∧
    (Instr.sectorErase 0x1234 0x31#8).wellFormed Config.ex = false := by decide
theorem test_wf_catch_alls :
    (Instr.ignoreAt0 0x5555 0xAA#8).wellFormed Config.ex = false ∧
    (Instr.ignoreAt0 0x1234 0xF0#8).wellFormed Config.ex = false ∧
    (Instr.abortAt1 0x2AAA 0x55#8).wellFormed Config.ex = false ∧
    (Instr.abortAt2Cmd 0x5555 0x90#8).wellFormed Config.ex = false ∧
    (Instr.abortAt2Cmd 0x1234 0x00#8).wellFormed Config.ex = false ∧
    (Instr.abortAt2Addr 0x5555 0x00#8).wellFormed Config.ex = false := by decide
theorem test_wf_erase_catch_alls :
    (Instr.abortAtE3 0x5555 0xAA#8).wellFormed Config.ex = false ∧
    (Instr.abortAtE4 0x2AAA 0x55#8).wellFormed Config.ex = false ∧
    (Instr.eraseNone 0x5555 0x10#8).wellFormed Config.ex = false ∧
    (Instr.eraseNone 0x1234 0x30#8).wellFormed Config.ex = false := by decide
theorem test_wf_window :
    (Instr.flashForward 0xC000 0x00#8).wellFormed Config.ex = false ∧
    (Instr.bankShift 0xBFFF 0x00#8).wellFormed Config.ex = false ∧
    (Instr.bankShift 0x10000 0x00#8).wellFormed Config.ex = false ∧
    (Instr.windowRead 0x7FFF).wellFormed Config.ex = false := by decide

/-! ### Decoding, from words written out from the opcode table's match and mask -/

theorem test_decode_busyIgnore :
    decode Config.ex ⟨.wait2, true, false⟩ (cwOf 0x555590#23) = .ok (.busyIgnore 0x5555 0x90#8) := rfl
theorem test_decode_unlock1 :
    decode Config.ex (at_ .wait0) (cwOf 0x5555AA#23) = .ok (.unlock1 0x5555 0xAA#8) := rfl
theorem test_decode_idExitShort :
    decode Config.ex (at_ .wait0) (cwOf 0x5555F0#23) = .ok (.idExitShort 0x5555 0xF0#8) := rfl
theorem test_decode_ignoreAt0 :
    decode Config.ex (at_ .wait0) (cwOf 0x2AAA55#23) = .ok (.ignoreAt0 0x2AAA 0x55#8) := rfl
theorem test_decode_unlock2 :
    decode Config.ex (at_ .wait1) (cwOf 0x2AAA55#23) = .ok (.unlock2 0x2AAA 0x55#8) := rfl
theorem test_decode_abortAt1 :
    decode Config.ex (at_ .wait1) (cwOf 0x0000F0#23) = .ok (.abortAt1 0x0000 0xF0#8) := rfl
theorem test_decode_eraseSetup :
    decode Config.ex (at_ .wait2) (cwOf 0x555580#23) = .ok (.eraseSetup 0x5555 0x80#8) := rfl
theorem test_decode_idEntry :
    decode Config.ex (at_ .wait2) (cwOf 0x555590#23) = .ok (.idEntry 0x5555 0x90#8) := rfl
theorem test_decode_programSetup :
    decode Config.ex (at_ .wait2) (cwOf 0x5555A0#23) = .ok (.programSetup 0x5555 0xA0#8) := rfl
theorem test_decode_idExitLong :
    decode Config.ex (at_ .wait2) (cwOf 0x5555F0#23) = .ok (.idExitLong 0x5555 0xF0#8) := rfl
theorem test_decode_abortAt2Cmd :
    decode Config.ex (at_ .wait2) (cwOf 0x5555AA#23) = .ok (.abortAt2Cmd 0x5555 0xAA#8) := rfl
theorem test_decode_abortAt2Addr :
    decode Config.ex (at_ .wait2) (cwOf 0x2AAA90#23) = .ok (.abortAt2Addr 0x2AAA 0x90#8) := rfl
theorem test_decode_program :
    decode Config.ex (at_ .write3) (cwOf 0x5555F0#23) = .ok (.program 0x5555 0xF0#8) := rfl
theorem test_decode_eraseUnlock1 :
    decode Config.ex (at_ .erase3) (cwOf 0x5555AA#23) = .ok (.eraseUnlock1 0x5555 0xAA#8) := rfl
theorem test_decode_abortAtE3 :
    decode Config.ex (at_ .erase3) (cwOf 0x2AAA55#23) = .ok (.abortAtE3 0x2AAA 0x55#8) := rfl
theorem test_decode_eraseUnlock2 :
    decode Config.ex (at_ .erase4) (cwOf 0x2AAA55#23) = .ok (.eraseUnlock2 0x2AAA 0x55#8) := rfl
theorem test_decode_abortAtE4 :
    decode Config.ex (at_ .erase4) (cwOf 0x5555AA#23) = .ok (.abortAtE4 0x5555 0xAA#8) := rfl
theorem test_decode_chipErase :
    decode Config.ex (at_ .erase5) (cwOf 0x555510#23) = .ok (.chipErase 0x5555 0x10#8) := rfl
theorem test_decode_sectorErase :
    decode Config.ex (at_ .erase5) (cwOf 0x555530#23) = .ok (.sectorErase 0x5555 0x30#8) := rfl
theorem test_decode_eraseNone :
    decode Config.ex (at_ .erase5) (cwOf 0x123410#23) = .ok (.eraseNone 0x1234 0x10#8) := rfl
theorem test_decode_readId :
    decode Config.ex ⟨.write3, true, true⟩ (.cr 0x201) = .ok (.readId 0x201) := rfl
theorem test_decode_readStatus :
    decode Config.ex ⟨.wait0, true, false⟩ (.cr 0x55555) = .ok (.readStatus 0x55555) := rfl
theorem test_decode_readArray :
    decode Config.ex ⟨.wait1, false, false⟩ (.cr 0x5555) = .ok (.readArray 0x5555) := rfl
theorem test_decode_flashForward :
    decode Config.ex (at_ .wait0) (.bw 0x8000 0x12#8) = .ok (.flashForward 0x8000 0x12#8) ∧
    decode Config.ex (at_ .wait0) (.bw 0xBFFF 0x12#8) = .ok (.flashForward 0xBFFF 0x12#8) := ⟨rfl, rfl⟩
theorem test_decode_bankShift :
    decode Config.ex (at_ .wait0) (.bw 0xC000 0x12#8) = .ok (.bankShift 0xC000 0x12#8) ∧
    decode Config.ex (at_ .wait0) (.bw 0xFFFF 0x12#8) = .ok (.bankShift 0xFFFF 0x12#8) := ⟨rfl, rfl⟩
theorem test_decode_windowRead :
    decode Config.ex (at_ .wait0) (.br 0x8000) = .ok (.windowRead 0x8000) ∧
    decode Config.ex (at_ .wait0) (.br 0xFFFF) = .ok (.windowRead 0xFFFF) := ⟨rfl, rfl⟩
/-- V-BK-7 and its neighbours: outside the window. -/
theorem test_decode_outside :
    decode Config.ex (at_ .wait0) (.bw 0x7FFF 0xAA#8) = .error .outsideWindow ∧
    decode Config.ex (at_ .wait0) (.bw 0x10000 0xAA#8) = .error .outsideWindow ∧
    decode Config.ex (at_ .wait0) (.br 0x10000) = .error .outsideWindow := ⟨rfl, rfl, rfl⟩
/-- The `K` column of L2.1: V-CS-2, V-CS-9 and V-CS-16. -/
theorem test_compareWord_high_bits :
    compareWord 0x7D555 0xAA#8 = 0x5555AA#23 ∧ compareWord 0xAAAA 0x55#8 = 0x2AAA55#23 ∧
    compareWord 0xD555 0xA0#8 = 0x5555A0#23 := by decide
/-- The fixed bits of the table, as bare words. -/
theorem test_decodeTableWord :
    decodeTableWord 24 0x5555AA = some (.unlock1 0x5555 0xAA#8) ∧
    decodeTableWord 24 0x2AAA55 = some (.unlock2 0x2AAA 0x55#8) ∧
    decodeTableWord 24 0x555510 = some (.chipErase 0x5555 0x10#8) ∧
    decodeTableWord 24 0x000030 = some (.sectorErase 0x0000 0x30#8) ∧
    decodeTableWord 24 0x0000F0 = some (.idExitShort 0x0000 0xF0#8) ∧
    decodeTableWord 24 0x800000 = none := ⟨rfl, rfl, rfl, rfl, rfl, rfl⟩

/-- A placed word is the first instruction after reset. -/
theorem test_withFetchWord :
    (nextOf (step (State.reset.withFetchWord 24 0x555590))).map State.softwareId = some true ∧
    (nextOf (step (State.reset.withFetchWord 24 0x555510))).map State.busyUntilClock = some 190000 ∧
    (nextOf (step (State.reset.withFetchWord 24 0x5555A0))).map State.stage = some .write3 := ⟨rfl, rfl, rfl⟩

/-! ### Command sequence (95_test_vectors.md L2.1) -/

/-- V-CS-1. -/
theorem test_unlock1 : fields (chipWrite 0x5555 0xAA#8 (chip .wait0 100)) = some (.wait1, false, 0, 0x00#8) := by
  decide
/-- V-CS-8. -/
theorem test_unlock2 : fields (chipWrite 0x2AAA 0x55#8 (chip .wait1 100)) = some (.wait2, false, 0, 0x00#8) := by
  decide
/-- V-CS-3. -/
theorem test_ignoreAt0 : fields (chipWrite 0x5554 0xAA#8 (chip .wait0 100)) = some (.wait0, false, 0, 0x00#8) := by
  decide
/-- V-CS-6. -/
theorem test_idExitShort :
    fields (chipWrite 0x1234 0xF0#8 { chip .wait0 100 with softwareId := true }) =
      some (.wait0, false, 0, 0x00#8) := by decide
/-- V-CS-10 and V-CS-11: the aborting write is not examined again, and `F0` keeps software-ID mode. -/
theorem test_abortAt1 :
    fields (chipWrite 0x5555 0xAA#8 (chip .wait1 100)) = some (.wait0, false, 0, 0x00#8) ∧
    fields (chipWrite 0x0000 0xF0#8 { chip .wait1 100 with softwareId := true }) =
      some (.wait0, true, 0, 0x00#8) := by decide
/-- V-CS-12. -/
theorem test_eraseSetup : fields (chipWrite 0x5555 0x80#8 (chip .wait2 100)) = some (.erase3, false, 0, 0x00#8) := by
  decide
/-- V-CS-13. -/
theorem test_idEntry : fields (chipWrite 0x5555 0x90#8 (chip .wait2 100)) = some (.wait0, true, 0, 0x00#8) := by
  decide
/-- V-CS-16. -/
theorem test_programSetup :
    fields (chipWrite 0xD555 0xA0#8 (chip .wait2 100)) = some (.write3, false, 0, 0x00#8) := by decide
/-- V-CS-17. -/
theorem test_idExitLong :
    fields (chipWrite 0x5555 0xF0#8 { chip .wait2 100 with softwareId := true }) =
      some (.wait0, false, 0, 0x00#8) := by decide
/-- V-CS-18. -/
theorem test_abortAt2Cmd : fields (chipWrite 0x5555 0x00#8 (chip .wait2 100)) = some (.wait0, false, 0, 0x00#8) := by
  decide
/-- V-CS-21. -/
theorem test_abortAt2Addr :
    fields (chipWrite 0x2AAA 0x90#8 (chip .wait2 100)) = some (.wait0, false, 0, 0x00#8) := by decide

/-! ### Byte program (L2.2) -/

/-- V-PG-2. -/
theorem test_program_and :
    fields (chipWrite 0x01234 0x3C#8 { chip .write3 1000 with mem := [(0x01234, 0xF0#8)] }) =
      some (.wait0, false, 1016, 0x80#8) ∧
    byteAt (chipWrite 0x01234 0x3C#8 { chip .write3 1000 with mem := [(0x01234, 0xF0#8)] }) 0x01234 =
      some 0x30#8 := by decide
/-- V-PG-8 and V-PG-9: the last byte of the array, and the first address beyond it. -/
theorem test_program_bounds :
    byteAt (chipWrite 0x7FFFF 0x7F#8 (chip .write3 1000)) 0x7FFFF = some 0x7F#8 ∧
    (nextOf (chipWrite 0x80000 0x00#8 (chip .write3 1000))).map State.mem = some [] ∧
    fields (chipWrite 0x80000 0x00#8 (chip .write3 1000)) = some (.wait0, false, 1016, 0x80#8) := by decide

/-! ### Erase (L2.3) -/

/-- V-ER-1. -/
theorem test_eraseUnlock1 : fields (chipWrite 0x5555 0xAA#8 (chip .erase3 100)) = some (.erase4, false, 0, 0x00#8) := by
  decide
/-- V-ER-3. -/
theorem test_abortAtE3 :
    fields (chipWrite 0x0000 0xF0#8 { chip .erase3 100 with softwareId := true }) =
      some (.wait0, true, 0, 0x00#8) := by decide
/-- V-ER-4. -/
theorem test_eraseUnlock2 : fields (chipWrite 0x2AAA 0x55#8 (chip .erase4 100)) = some (.erase5, false, 0, 0x00#8) := by
  decide
/-- V-ER-5. -/
theorem test_abortAtE4 : fields (chipWrite 0x5555 0xAA#8 (chip .erase4 100)) = some (.wait0, false, 0, 0x00#8) := by
  decide
/-- V-ER-7. -/
theorem test_chipErase :
    fields (chipWrite 0x0D555 0x10#8 { chip .erase5 500 with mem := [(0, 0x00#8), (0x7FFFF, 0x12#8)] }) =
      some (.wait0, false, 190500, 0x00#8) ∧
    (nextOf (chipWrite 0x0D555 0x10#8 { chip .erase5 500 with mem := [(0, 0x00#8), (0x7FFFF, 0x12#8)] })).map
      State.mem = some [] := by decide
/-- V-ER-9 and L1-3: the bytes beside the sector stay. -/
theorem test_sectorErase :
    (nextOf (chipWrite 0x12345 0x30#8 { chip .erase5 2000 with
      mem := [(0x11FFF, 0x11#8), (0x12000, 0x00#8), (0x12FFF, 0x00#8), (0x13000, 0x22#8)] })).map
        (fun s => (s.mem, s.busyUntilClock)) = some ([(0x11FFF, 0x11#8), (0x13000, 0x22#8)], 42000) := by decide
/-- V-ER-14: a sector that the array's end cuts. -/
theorem test_sectorErase_beyond :
    (nextOf (chipWrite 0x7F000 0x30#8 { chip .erase5 100 with
      cfg := { Config.ex with flashSize := 0x7F800 }, mem := [(0x7F000, 0x00#8)] })).map
        (fun s => (s.mem, s.busyUntilClock)) = some ([(0x7F000, 0x00#8)], 40100) := by decide
/-- V-ER-8. -/
theorem test_eraseNone : fields (chipWrite 0x1234 0x10#8 (chip .erase5 100)) = some (.wait0, false, 0, 0x00#8) := by
  decide

/-! ### Chip read (L2.4) -/

/-- V-RD-6 and V-RD-4. -/
theorem test_readId :
    responseOf (exec (.readId 0x12401) { chip .wait0 0 with softwareId := true }) =
      some (.chip (.present 0xB7#8)) ∧
    responseOf (exec (.readId 0x1FF) { chip .wait0 0 with softwareId := true }) =
      some (.chip (.present 0xFF#8)) := by decide
/-- V-RD-9. -/
theorem test_readStatus :
    fields (exec (.readStatus 0x55555) (busyChip 1001 0xC0#8)) = some (.wait0, false, 1016, 0x80#8) ∧
    responseOf (exec (.readStatus 0x55555) (busyChip 1001 0xC0#8)) = some (.chip (.present 0x80#8)) := by decide
/-- V-RD-12. -/
theorem test_readArray : responseOf (exec (.readArray 0x90000) (chip .wait0 0)) = some (.chip .absent) := by decide

/-! ### Busy window (L2.5) -/

/-- V-BZ-2, V-BZ-4 and V-BZ-5. -/
theorem test_busyTicks :
    busyTicks { Config.ex with clockRate := 1789773 } 8 = 14 ∧
    busyTicks { Config.ex with clockRate := 1789773 } 95000 = 170028 ∧
    busyTicks { Config.ex with clockRate := 125000 } 20000 = 2500 ∧
    busyTicks { Config.ex with clockRate := 100000 } 8 = 0 := by decide
/-- V-BZ-7: the write at 1015 is ignored, the one at 1016 is UNLOCK1. -/
theorem test_busyIgnore :
    fields (chipWrite 0x5555 0xAA#8 (busyChip 1015 0x80#8)) = some (.wait0, false, 1016, 0x80#8) ∧
    fields (chipWrite 0x5555 0xAA#8 (busyChip 1016 0x80#8)) = some (.wait1, false, 1016, 0x80#8) := by decide

/-! ### Bank mux (L2.6) -/

/-- V-BK-1 and V-BK-3. -/
theorem test_bankShift :
    bankOf (exec (.bankShift 0xC000 0x01#8) { chip .wait0 0 with bank := 10 }) = some 21 ∧
    bankOf (exec (.bankShift 0xFFFF 0xFE#8) { chip .wait0 0 with bank := 31 }) = some 15 := by decide
/-- V-BK-8 and V-BK-10. -/
theorem test_flashForward :
    fields (exec (.flashForward 0x9555 0xAA#8) { chip .wait0 0 with bank := 21 }) =
      some (.wait1, false, 0, 0x00#8) ∧
    fields (exec (.flashForward 0x9555 0xAA#8) { chip .wait0 0 with bank := 20 }) =
      some (.wait0, false, 0, 0x00#8) := by decide
/-- V-BK-12 and V-BK-13. -/
theorem test_windowRead :
    responseOf (exec (.windowRead 0xC010) { chip .wait0 0 with bank := 3, mem := [(0x0C010, 0x42#8)] }) =
      some (.byte 0x42#8) ∧
    responseOf (exec (.windowRead 0xC010) { busyChip 1001 0x80#8 with bank := 3 }) = some (.byte 0xC0#8) := by decide
/-- V-BK-16: beyond the array only the draw counter moves. -/
theorem test_windowRead_beyond :
    (nextOf (exec (.windowRead 0x8000) { chip .wait0 0 with
      cfg := { Config.ex with flashSize := 0x40000 }, bank := 16 })).map
        (fun s => (s.draws, s.mem, s.busyStatusByte)) = some (1, [], 0x00#8) := rfl

/-! ### Reset, snapshot and the script (L2.7) -/

/-- V-RS-1. -/
theorem test_chipReset :
    fields (step { scripted .erase4 [lineReset 7] with
      softwareId := true, busyUntilClock := 190005, busyStatusByte := 0x40#8, bank := 21 }) =
      some (.wait0, false, 0, 0x00#8) ∧
    bankOf (step { scripted .erase4 [lineReset 7] with bank := 21 }) = some 21 := by decide
/-- R34: a pair that R23 does not allow, and a bank beyond `BANK_MASK`, are refused. -/
theorem test_restore_refused :
    State.restore (chip .wait0 0) ⟨.write, 2, false, 0, 0x00#8, [], 0⟩ = .refused .restoreBadPair ∧
    State.restore (chip .wait0 0) ⟨.write, 3, false, 0, 0x00#8, [], 32⟩ = .refused .restoreBadBank ∧
    fields (State.restore (chip .wait0 0) ⟨.write, 3, true, 9, 0x40#8, [], 31⟩) =
      some (.write3, true, 9, 0x40#8) := ⟨rfl, rfl, by decide⟩
/-- `SETBANK 10` is the byte list of V-BK-6. -/
theorem test_scriptSetBank :
    scriptSetBank Config.ex 0 10 =
      [lineW 0 0xC000 0x00#8, lineW 1 0xC000 0x01#8, lineW 2 0xC000 0x00#8, lineW 3 0xC000 0x01#8,
        lineW 4 0xC000 0x00#8] := by decide
/-- R231: reset memory has the canonical form. -/
theorem test_reset_mem : State.reset.mem.wf := by decide
/-- A write of the unlisted byte removes the entry, and a write keeps the list sorted. -/
theorem test_memory_canonical :
    Memory.write [(1, 0x00#8), (5, 0x11#8)] 5 0xFF#8 = [(1, 0x00#8)] ∧
    Memory.write [(1, 0x00#8), (5, 0x11#8)] 3 0x22#8 = [(1, 0x00#8), (3, 0x22#8), (5, 0x11#8)] := by decide

/-! ### Hypotheses that are met: one concrete state and operands for each statement, and each clause -/

theorem witness_DecodeInvertsEncode :
    (Instr.unlock1 0xD555 0xAA#8).wellFormed Config.ex = true ∧
    (Instr.unlock1 0xD555 0xAA#8).inContext (at_ .wait0) = true ∧
    (Instr.bankShift 0xFFFF 0x01#8).wellFormed Config.ex = true ∧
    (Instr.bankShift 0xFFFF 0x01#8).inContext (at_ .wait0) = true := by decide
theorem witness_EncodeInvertsDecode :
    Config.ex.wf ∧ ¬ (Config.ex.windowBase ≤ 0x10000 ∧ 0x10000 < Config.ex.windowBase + Config.ex.windowSize) := by
  decide
theorem witness_CommandDecodeIgnoresHighAddressBits : 0x5555 % 0x8000 = 0x7D555 % 0x8000 := by decide
theorem witness_OnlyLegalModeCyclePairsOccur :
    (chip .wait0 0).cfg.wf ∧ ¬ ∃ u : State, u.mode = .write ∧ u.cycle = 4 := by
  refine ⟨by decide, ?_⟩
  rintro ⟨u, hm, hc⟩
  unfold State.mode State.cycle at *
  cases h : u.stage <;> rw [h] at hm hc <;> revert hm hc <;> decide
theorem witness_StepRunsTheDecodedInstruction :
    (scripted .wait0 [lineCW 0 0x5555 0xAA#8]).cfg.wf ∧
    (scripted .wait0 [lineCW 0 0x5555 0xAA#8]).script = [⟨0, .cycle (.cw 0x5555 0xAA#8)⟩] ∧
    decode Config.ex ⟨.wait0, decide (0 < 0), false⟩ (.cw 0x5555 0xAA#8) = .ok (.unlock1 0x5555 0xAA#8) :=
  ⟨by decide, rfl, rfl⟩
theorem witness_AccessOutsideTheWindowIsNotSeen :
    (0x7FFF < Config.ex.windowBase ∨ Config.ex.windowBase + Config.ex.windowSize ≤ 0x7FFF) ∧
    (0x10000 < Config.ex.windowBase ∨ Config.ex.windowBase + Config.ex.windowSize ≤ 0x10000) ∧
    (scripted .wait0 [lineW 0 0x7FFF 0xAA#8, lineR 1 0x10000]).cfg.wf := by decide
/-- Scripts that begin with each of the host's operations, on a well-formed configuration: the hypotheses of the
statements about ChipReset, HardReset, Snapshot, ReplaceMemory and the delay switch. -/
theorem witness_HostOperations :
    (scripted .write3 [lineReset 5]).script = [⟨5, .chipReset⟩] ∧
    (scripted .write3 [⟨5, .hardReset⟩]).script = [⟨5, .hardReset⟩] ∧
    (scripted .write3 [⟨5, .snapshot⟩]).script = [⟨5, .snapshot⟩] ∧
    (scripted .write3 [⟨5, .replaceMemory [(3, 0x00#8)]⟩]).script = [⟨5, .replaceMemory [(3, 0x00#8)]⟩] ∧
    (scripted .write3 [⟨5, .setDelays false⟩]).script = [⟨5, .setDelays false⟩] ∧
    (scripted .write3 [lineReset 5]).cfg.wf := by decide
/-- The clauses of a restore at the bank's boundary: 31 is accepted, 32 is not. -/
theorem witness_SnapshotCopiesAndRestoreSetsEveryField :
    (Stage.erase4.mode = .erase ∧ Stage.erase4.cycle = 4) ∧
    31 ≤ 2 ^ Config.ex.bankBits - 1 ∧ 2 ^ Config.ex.bankBits - 1 < 32 ∧
    ¬ ∃ st : Stage, st.mode = .erase ∧ st.cycle = 2 := by
  refine ⟨by decide, by decide, by decide, ?_⟩
  rintro ⟨st, hm, hc⟩
  cases st <;> revert hm hc <;> decide
theorem witness_Inv : Inv (chip .write3 7) := ⟨by decide, by decide, by decide, by decide⟩
theorem witness_RestoreUndoesEverythingSinceTheSnapshot :
    Inv (chip .write3 7) ∧ (chip .wait0 9).cfg = (chip .write3 7).cfg := ⟨witness_Inv, rfl⟩
theorem witness_UnlockBytesAdvanceTheCycle :
    (chip .wait0 0).idleAt .wait0 ∧ (chip .wait1 0).idleAt .wait1 ∧ (chip .erase3 0).idleAt .erase3 ∧
    (chip .erase4 0).idleAt .erase4 ∧ 0x7D555 &&& 0x7FFF = 0x5555 ∧ 0xAAAA &&& 0x7FFF = 0x2AAA := by decide
theorem witness_SetupCommandsEnterTheirModes : (chip .wait2 0).idleAt .wait2 ∧ 0xD555 &&& 0x7FFF = 0x5555 := by decide
theorem witness_AbortRowsClearOnlyModeAndCycle :
    (chip .wait1 0).idleAt .wait1 ∧ ¬ (0x5555 &&& 0x7FFF = 0x2AAA ∧ 0xAA#8 = 0x55#8) ∧
    (chip .wait2 0).idleAt .wait2 ∧ 0x2AAA &&& 0x7FFF ≠ 0x5555 ∧ 0x81#8 ∉ [0x80#8, 0x90#8, 0xA0#8, 0xF0#8] ∧
    (chip .erase3 0).idleAt .erase3 ∧ ¬ (0x2AAA &&& 0x7FFF = 0x5555 ∧ 0x55#8 = 0xAA#8) ∧
    (chip .erase4 0).idleAt .erase4 := by decide
theorem witness_OtherEraseCommandBytesOnlyAbort :
    (chip .erase5 0).idleAt .erase5 ∧ ¬ (0x1234 &&& 0x7FFF = 0x5555 ∧ 0x10#8 = 0x10#8) ∧ 0x10#8 ≠ 0x30#8 := by decide
/-- Busy until the tick before the deadline (1016), and not at it. -/
theorem witness_BusyAndUnrecognisedFirstWritesAreIgnored :
    (busyChip 1015 0x80#8).clock < (busyChip 1015 0x80#8).busyUntilClock ∧
    (busyChip 1016 0x80#8).idleAt .wait0 ∧ ¬ (0x2AAA &&& 0x7FFF = 0x5555 ∧ 0x55#8 = 0xAA#8) ∧ 0x55#8 ≠ 0xF0#8 := by
  decide
theorem witness_SoftwareIdCommandsSetAndClearTheFlag :
    (chip .wait2 0).idleAt .wait2 ∧ 0x5555 &&& 0x7FFF = 0x5555 ∧ (chip .wait0 0).idleAt .wait0 := by decide
theorem witness_ProgramAndsTheByteAndStartsTheWindow :
    (chip .write3 0).idleAt .write3 ∧ (chip .write3 0).mem.wf ∧ 0x7FFFF < (chip .write3 0).cfg.flashSize ∧
    ¬ 0x80000 < (chip .write3 0).cfg.flashSize := by decide
theorem witness_ChipEraseFillsTheArray : (chip .erase5 0).idleAt .erase5 ∧ 0x0D555 &&& 0x7FFF = 0x5555 := by decide
/-- The last sector of EX is in the array; the same sector of a smaller array is not. -/
theorem witness_SectorEraseFillsTheAlignedSector :
    (chip .erase5 0).idleAt .erase5 ∧ (chip .erase5 0).cfg.wf ∧
    (0x7FFFF &&& Config.ex.sectorMask) + 4096 ≤ Config.ex.flashSize ∧
    ¬ (0x7FFFF &&& Config.ex.sectorMask) + 4096 ≤ 0x7F800 := by decide
theorem witness_DisabledDelaysStartNoWindow : { chip .write3 0 with delaysEnabled := false }.delaysEnabled = false := rfl
theorem witness_ChipReadPriorityAndResults :
    { busyChip 1015 0x80#8 with softwareId := true }.softwareId = true ∧
    ((busyChip 1015 0x80#8).softwareId = false ∧ (busyChip 1015 0x80#8).clock < 1016) ∧
    ((busyChip 1016 0x80#8).softwareId = false ∧ (busyChip 1016 0x80#8).busyUntilClock ≤ 1016) := by decide
/-- The ends of the window, and the two sides of the array's end. -/
theorem witness_WindowReadReturnsChipValueOrArrayByte :
    (Config.ex.windowBase ≤ 0x8000 ∧ 0x8000 < Config.ex.windowBase + Config.ex.windowSize) ∧
    (Config.ex.windowBase ≤ 0xFFFF ∧ 0xFFFF < Config.ex.windowBase + Config.ex.windowSize) ∧
    ((0xFFFF - Config.ex.windowBase) &&& (2 ^ Config.ex.pageShift - 1)) ||| (31 <<< Config.ex.pageShift) = 0x7FFFF ∧
    0x7FFFF < Config.ex.flashSize ∧ { Config.ex with flashSize := 0x7FFFF }.flashSize ≤ 0x7FFFF := by decide
/-- A chip with deadline 1016 whose next operations are two reads of the window's first byte. -/
def polling (t₁ t₂ : Nat) : State :=
  { busyChip 0 0x80#8 with script := [lineR t₁ 0x8000, lineR t₂ 0x8000], mem := [(0, 0xC0#8)] }

/-- What the two steps of a poll return. -/
def polled (s : State) : Option Response × Option Response :=
  (responseOf (steps 1 s), responseOf (steps 2 s))

theorem witness_ConsecutiveWindowReadsAgreeAsR237Says :
    (polling 1015 1016).cfg.wf ∧ 1015 ≤ 1016 ∧
    (polling 1015 1016).script = [⟨1015, .cycle (.br 0x8000)⟩, ⟨1016, .cycle (.br 0x8000)⟩] ∧
    Config.ex.windowBase ≤ 0x8000 ∧ 0x8000 < Config.ex.windowBase + Config.ex.windowSize ∧
    0 = ((0x8000 - Config.ex.windowBase) &&& (2 ^ Config.ex.pageShift - 1)) ||| (0 <<< Config.ex.pageShift) ∧
    0 < Config.ex.flashSize := by decide
/-- R237's cases at the deadline 1016, by R82 and R194: both reads busy. -/
theorem witness_polling_both_busy :
    polled (polling 1014 1015) = (some (.byte 0xC0#8), some (.byte 0x80#8)) := rfl
/-- Busy then idle, the array byte equal to the status byte returned. -/
theorem witness_polling_busy_then_equal :
    polled (polling 1015 1016) = (some (.byte 0xC0#8), some (.byte 0xC0#8)) := rfl
/-- Busy then idle, the array byte another. -/
theorem witness_polling_busy_then_other :
    polled { polling 1015 1016 with mem := [] } = (some (.byte 0xC0#8), some (.byte 0xFF#8)) := rfl
/-- Neither read busy. -/
theorem witness_polling_both_idle :
    polled (polling 1016 1016) = (some (.byte 0xC0#8), some (.byte 0xC0#8)) := rfl
/-- In software-ID mode the reads agree although both are busy. -/
theorem witness_polling_softwareId :
    polled { polling 1014 1015 with softwareId := true } = (some (.byte 0xBF#8), some (.byte 0xBF#8)) := rfl
theorem witness_DataPollingBitDuringProgramAndErase :
    (chip .write3 0).cfg.wf ∧ (chip .write3 0).mem.wf ∧ (chip .write3 0).delaysEnabled = true ∧
    (chip .write3 0).cfg.dataPollBit = 7 ∧ 0x7FFFF < (chip .write3 0).cfg.flashSize ∧
    (0x7FFFF &&& (chip .write3 0).cfg.sectorMask) + 4096 ≤ (chip .write3 0).cfg.flashSize := by decide
/-- The two sides of the split. -/
theorem witness_FlashForwardAndBankShift :
    (Config.ex.windowBase ≤ 0xBFFF ∧ 0xBFFF < Config.ex.windowBase + Config.ex.split) ∧
    (Config.ex.windowBase + Config.ex.split ≤ 0xC000 ∧ 0xC000 < Config.ex.windowBase + Config.ex.windowSize) ∧
    0x55555 = ((0x9555 - Config.ex.windowBase) &&& (2 ^ Config.ex.pageShift - 1)) ||| (21 <<< Config.ex.pageShift) := by
  decide
theorem witness_BankLoadTakesBankBitsWrites :
    { chip .wait0 0 with bank := 31 }.cfg.wf ∧ 31 ≤ 2 ^ (chip .wait0 0).cfg.bankBits - 1 ∧
    [0x01#8, 0x01#8, 0x00#8, 0x00#8, 0x00#8].length = (chip .wait0 0).cfg.bankBits := by decide
theorem witness_BankAndChipAreIndependent :
    (chip .wait0 0).decodesTo (.cw 0x5555 0xAA#8) (.unlock1 0x5555 0xAA#8) ∧
    (chip .wait0 0).decodesTo (.cr 0x5555) (.readArray 0x5555) := ⟨rfl, rfl⟩
theorem witness_CommandAddressDependsOnTheBank :
    cmdAddr (flatAddr Config.ex 21 0x1555) = 0x5555 ∧ cmdAddr (flatAddr Config.ex 10 0x2AAA) = 0x2AAA ∧
    15 ≤ { Config.ex with pageShift := 15 }.pageShift := by decide
theorem witness_InvariantHoldsAtPowerOn :
    Config.ex.wf ∧ Memory.wf [(0x7FFFF, 0x00#8)] ∧ Memory.within Config.ex.flashSize [(0x7FFFF, 0x00#8)] ∧
    31 ≤ 2 ^ Config.ex.bankBits - 1 := by decide
theorem witness_StepKeepsInvariant :
    Inv (scripted .write3 [lineCW 9 0x10 0x00#8]) ∧
    ∃ t, step (scripted .write3 [lineCW 9 0x10 0x00#8]) = .next t ∧ t.mem = [(0x10, 0x00#8)] :=
  ⟨⟨by decide, by decide, by decide, by decide⟩, _, rfl, rfl⟩
theorem witness_BusyIsIdleHoldsAtPowerOn : quietScript 0 [lineCW 3 0x5555 0xAA#8, lineReset 3] = true := by decide
theorem witness_StepKeepsBusyIsIdle :
    BusyIsIdle { busyChip 1015 0x80#8 with script := [lineCW 1016 0x5555 0xAA#8] } ∧
    ∃ t, step { busyChip 1015 0x80#8 with script := [lineCW 1016 0x5555 0xAA#8] } = .next t ∧ t.stage = .wait1 :=
  ⟨⟨fun _ => ⟨rfl, rfl⟩, by decide⟩, _, rfl, rfl⟩
theorem witness_OnlyIdCommandsAndResetChangeSoftwareId :
    (lineCW 0 0x5555 0x90#8).op.noRestore = true ∧
    ∃ t, step (scripted .wait2 [lineCW 0 0x5555 0x90#8]) = .next t ∧
      t.softwareId ≠ (scripted .wait2 [lineCW 0 0x5555 0x90#8]).softwareId := ⟨rfl, _, rfl, by decide⟩
theorem witness_OnlyResetEndsABusyWindow :
    (lineReset 1015).op.noRestore = true ∧ (lineReset 1015).t < (busyChip 0 0x80#8).busyUntilClock ∧
    ∃ t, step { busyChip 0 0x80#8 with script := [lineReset 1015] } = .next t ∧ t.busyUntilClock ≠ 1016 :=
  ⟨rfl, by decide, _, rfl, by decide⟩
theorem witness_DeadlineIsWrittenOnlyByCommandsAndReset :
    (lineCW 9 0x10 0x00#8).op.noRestore = true ∧
    ∃ t, step (scripted .write3 [lineCW 9 0x10 0x00#8]) = .next t ∧
      t.busyUntilClock ≠ (scripted .write3 [lineCW 9 0x10 0x00#8]).busyUntilClock := ⟨rfl, _, rfl, by decide⟩
theorem witness_OnlyProgramAndEraseChangeMemory :
    ∃ t, step (scripted .write3 [lineCW 9 0x10 0x00#8]) = .next t ∧
      t.mem ≠ (scripted .write3 [lineCW 9 0x10 0x00#8]).mem := ⟨_, rfl, by decide⟩
theorem witness_BitsAreSetOnlyByErase :
    (scripted .write3 [lineCW 9 0x10 0x00#8]).mem.wf ∧ (lineCW 9 0x10 0x00#8).op.noRestore = true ∧
    (∀ image, (lineCW 9 0x10 0x00#8).op ≠ .replaceMemory image) ∧
    (scripted .write3 [lineCW 9 0x10 0x00#8]).stage ≠ .erase5 ∧
    ∃ t, step (scripted .write3 [lineCW 9 0x10 0x00#8]) = .next t :=
  ⟨by decide, rfl, (fun _ h => by cases h), by decide, _, rfl⟩
theorem witness_ModesAreEnteredOnlyThroughTheUnlock :
    ∃ t, steps 3 (scripted .wait0 [lineCW 0 0x5555 0xAA#8, lineCW 1 0x2AAA 0x55#8, lineCW 2 0x5555 0xA0#8]) =
      .next t ∧ t.mode ≠ .waitingForCommand := ⟨_, rfl, by decide⟩
theorem witness_ProgramAndEraseSequencesReachTheirEffect :
    (scripted .wait0 (scriptSectorErase 0 0x12345)).cfg.wf ∧
    (scripted .wait0 (scriptSectorErase 0 0x12345)).stage = .wait0 ∧
    (scripted .wait0 (scriptSectorErase 0 0x12345)).busyUntilClock ≤ 0 ∧
    (scripted .wait0 (scriptSectorErase 0 0x12345)).script = scriptSectorErase 0 0x12345 ++ [] ∧
    (scripted .wait0 (scriptProgram 0 5 0x00#8)).script = scriptProgram 0 5 0x00#8 ++ [] ∧
    (scripted .wait0 (scriptChipErase 0)).script = scriptChipErase 0 ++ [] := by decide
theorem witness_SoftwareIdSequencesReachTheirEffect :
    (scripted .wait0 (scriptIdEntry 0)).cfg.wf ∧ (scripted .wait0 (scriptIdEntry 0)).stage = .wait0 ∧
    (scripted .wait0 (scriptIdEntry 0)).busyUntilClock ≤ 0 ∧
    (scripted .wait0 (scriptIdEntry 0)).script = scriptIdEntry 0 ++ [] ∧
    (scripted .wait0 (scriptUnlock 0 ++ [lineCW 2 0x5555 0xF0#8])).script =
      scriptUnlock 0 ++ [lineCW (0 + 2) 0x5555 0xF0#8] ++ [] ∧
    (scripted .wait0 [lineCW 0 0x1234 0xF0#8]).script = [lineCW 0 0x1234 0xF0#8] := by decide
theorem witness_PlacedTableWordRunsNext :
    State.reset.cfg.wf ∧ decodeTableWord 24 0x555590 = some (.idEntry 0x5555 0x90#8) := ⟨by decide, rfl⟩

end Sys2Proof.Machine.Test
end

section
/-! PROOFS. The scope family (00_scope.md): which configurations a step refuses, and the structural invariant at
power-on. -/

namespace Sys2Proof

/-- `Config.wf` with the bit positions bounded as R7 bounds them ("in 0..7"). -/
theorem Config.wf_iff_bits_le_seven (c : Config) :
    c.wf ↔ 1 ≤ c.flashSize ∧ c.split ≤ c.windowSize ∧ 1 ≤ c.bankBits ∧ c.dataPollBit ≠ c.toggleBit ∧
      c.dataPollBit ≤ 7 ∧ c.toggleBit ≤ 7 ∧ c.shiftDataBit ≤ 7 ∧ c.sectorMask &&& 0xFFF = 0 ∧ 1 ≤ c.clockRate := by
  constructor
  · rintro ⟨hsize, hsplit, hbank, hpoll, htoggle, hne, hshift, hsector, hrate⟩
    exact ⟨hsize, hsplit, hbank, hne, Nat.le_of_lt_succ hpoll, Nat.le_of_lt_succ htoggle,
      Nat.le_of_lt_succ hshift, hsector, hrate⟩
  · rintro ⟨hsize, hsplit, hbank, hne, hpoll, htoggle, hshift, hsector, hrate⟩
    exact ⟨hsize, hsplit, hbank, Nat.lt_succ_of_le hpoll, Nat.lt_succ_of_le htoggle, hne,
      Nat.lt_succ_of_le hshift, hsector, hrate⟩

end Sys2Proof

namespace Sys2Proof.Machine

/-! ### What completes, and what a host operation can be refused for -/

/-- Every row of the `CW` format answers a next state; the two rows that test their bounds answer one on both
branches (R131, R155, R211). -/
theorem chipWrite_completes (a : Nat) (v : Byte) (s : State) : ∃ t, chipWrite a v s = .next t := by
  unfold chipWrite
  cases selectWrite s.context a v with
  | program => exact ⟨_, execProgram_eq a v s⟩
  | sectorErase => exact ⟨_, execSectorErase_eq a s⟩
  | _ => exact ⟨_, rfl⟩

/-- No bus cycle is refused (R211), inside or outside the window. -/
theorem performCycle_completes (c : Cycle) (s : State) : ∃ t, performCycle c s = .next t := by
  obtain ⟨a, v, h⟩ | ⟨a, h⟩ | ⟨v, h⟩ | ⟨x, h⟩ | h := performCycle_cases c s
  · rw [h]; exact chipWrite_completes a v s
  · exact ⟨_, h⟩
  · exact ⟨_, h⟩
  · exact ⟨_, h.trans (execWindowRead_eq x s)⟩
  · exact ⟨_, h⟩

/-- The only reasons a restore is refused for (R34). -/
theorem State.restore_refused {s : State} {saved : Snapshot} {r : Refusal} (h : s.restore saved = .refused r) :
    r = .restoreBadPair ∨ r = .restoreBadBank := by
  unfold State.restore at h
  split at h
  · cases h; exact .inl rfl
  · split at h
    · cases h
    · cases h; exact .inr rfl

/-- A host operation that is refused is a restore of a bad snapshot. -/
theorem perform_refused {op : HostOp} {s : State} {r : Refusal} (h : perform op s = .refused r) :
    (∃ saved, op = .restore saved) ∧ (r = .restoreBadPair ∨ r = .restoreBadBank) := by
  cases op with
  | restore saved => exact ⟨⟨saved, rfl⟩, State.restore_refused h⟩
  | cycle c =>
    obtain ⟨t, ht⟩ := performCycle_completes c s
    cases ht.symm.trans h
  | _ => cases h

/-! ### The refusal of an ill-formed configuration -/

/-- The check of `step` is exact: with a well-formed configuration no operation is refused for it (R7). -/
theorem step_illFormed_iff (s : State) : step s = .refused .illFormedConfig ↔ ¬ s.cfg.wf := by
  refine ⟨fun h hw => ?_, step_illFormed⟩
  cases hs : s.script with
  | nil => cases (step_idle hw hs).symm.trans h
  | cons acc rest =>
    obtain ⟨-, hr | hr⟩ := perform_refused ((step_perform hw hs).symm.trans h) <;> cases hr

/-- Settles O9: the check of `step` is the only source of this refusal, and it tests the conditions of R7. -/
theorem illFormedConfigurationIsRefused : Obligations.IllFormedConfigurationIsRefused := by
  intro s
  rw [step_illFormed_iff, Config.wf_iff_bits_le_seven]

/-! ### The structural invariant at power-on -/

/-- The invariant speaks only of the configuration, the memory and the bank. -/
theorem Inv.of_fields_eq {s t : State} (h : Inv s) (hcfg : t.cfg = s.cfg) (hmem : t.mem = s.mem)
    (hbank : t.bank = s.bank) : Inv t where
  cfgWf := by rw [hcfg]; exact h.cfgWf
  memWf := by rw [hmem]; exact h.memWf
  memWithin := by rw [hcfg, hmem]; exact h.memWithin
  bankFits := by rw [hcfg, hbank]; exact h.bankFits

theorem Inv.powerOn {cfg : Config} {image : Memory} {bank : Nat} (hcfg : cfg.wf) (hwf : image.wf)
    (hwithin : image.within cfg.flashSize) (hbank : bank ≤ bankMask cfg) (delays : Bool) :
    Inv (State.powerOn cfg delays image bank) :=
  ⟨hcfg, hwf, hwithin, hbank⟩

theorem Memory.within_nil (size : Nat) : Memory.within size [] := List.forall_mem_nil _

/-- The bank of `State.reset` is the first draw (R232), so it has `BANK_BITS` bits. -/
theorem State.reset_bank_le : State.reset.bank ≤ bankMask Config.ex :=
  (State.powerOn Config.ex true [] 0).drawnBank_le

theorem Inv.reset : Inv State.reset :=
  (Inv.powerOn (by decide : Config.ex.wf) Memory.wf_nil (Memory.within_nil _) State.reset_bank_le true).of_fields_eq
    rfl rfl rfl

/-- Settles O37: power-on takes each part of the invariant from the launch, and reset is the power-on of EX with
its bank drawn. -/
theorem invariantHoldsAtPowerOn : Obligations.InvariantHoldsAtPowerOn :=
  ⟨fun _ delays _ _ hcfg hwf hwithin hbank => Inv.powerOn hcfg hwf hwithin hbank delays, Inv.reset⟩

end Sys2Proof.Machine
end

section
/-! PROOFS. The state family (10_state.md): what a host operation can change, field by field, and the invariants of
R28, R29 and R37. -/

namespace Sys2Proof.Machine

/-! ### The stages are the pairs of R23 -/

/-- Every stage, in the order of R23. -/
def allStages : List Stage := [.wait0, .wait1, .wait2, .write3, .erase3, .erase4, .erase5]

theorem mem_allStages (st : Stage) : st ∈ allStages := by cases st <;> decide

/-- A pair is listed exactly when a stage has it. -/
theorem mem_stagePairs_iff (m : Mode) (c : Nat) :
    (m, c) ∈ allStages.map (fun st => (st.mode, st.cycle)) ↔ ∃ st : Stage, st.mode = m ∧ st.cycle = c := by
  rw [List.mem_map]
  constructor
  · rintro ⟨st, -, h⟩
    exact ⟨st, congrArg Prod.fst h, congrArg Prod.snd h⟩
  · rintro ⟨st, rfl, rfl⟩
    exact ⟨st, mem_allStages st, rfl⟩

/-- A pair is that of a state exactly when a stage has it. -/
theorem exists_state_pair_iff (m : Mode) (c : Nat) :
    (∃ s : State, s.mode = m ∧ s.cycle = c) ↔ ∃ st : Stage, st.mode = m ∧ st.cycle = c :=
  ⟨fun ⟨s, h⟩ => ⟨s.stage, h⟩, fun ⟨st, h⟩ => ⟨State.reset.setStage st, h⟩⟩

/-- Of the stages, `(WaitingForCommand, 0)` is that of `wait0` only. -/
theorem State.mode_cycle_idle_iff (s : State) :
    (s.mode = .waitingForCommand ∧ s.cycle = 0) ↔ s.stage = .wait0 := by
  unfold State.mode State.cycle
  cases s.stage <;> decide

/-! ### Restore -/

/-- A restore of a pair that no stage has is refused by its name, whatever the bank is (R34). -/
theorem State.restore_badPair (s : State) {saved : Snapshot}
    (h : ¬ ∃ st : Stage, st.mode = saved.mode ∧ st.cycle = saved.cycle) :
    s.restore saved = .refused .restoreBadPair := by
  have hnone : stageOfPair saved.mode saved.cycle = none :=
    Option.eq_none_iff_forall_ne_some.mpr fun st hst => h ⟨st, stageOfPair_some hst⟩
  unfold State.restore
  rw [hnone]

/-- A restore of a legal pair is decided by the bank (R34). -/
theorem State.restore_legalPair (s : State) {saved : Snapshot} {st : Stage}
    (h : st.mode = saved.mode ∧ st.cycle = saved.cycle) :
    s.restore saved =
      if saved.bank ≤ bankMask s.cfg then
        .next { s with
          stage := st, softwareId := saved.softwareId, busyUntilClock := saved.busyUntilClock,
          busyStatusByte := saved.busyStatusByte, mem := Memory.ofCells s.cfg.flashSize saved.image,
          bank := saved.bank }
      else .refused .restoreBadBank := by
  unfold State.restore
  rw [← h.1, ← h.2, stageOfPair_stage]

/-! ### What a chip write can do -/

/-- The chip write `a = v` is a program's data write or an erase command; `us` is its busy time and `m` the memory
it leaves (R130, R153, R154). -/
inductive ArrayCommand (a : Nat) (v : Byte) (s : State) : Nat → Memory → Prop where
  | program (hst : s.stage = .write3) : ArrayCommand a v s s.cfg.programDelayUs (s.programByte a v).mem
  | chipErase (hst : s.stage = .erase5) (hcmd : isCommand 0x5555 0x10#8 a v) :
      ArrayCommand a v s s.cfg.chipEraseDelayUs s.eraseChip.mem
  | sectorErase (hst : s.stage = .erase5) (hv : v = 0x30#8) :
      ArrayCommand a v s s.cfg.sectorEraseDelayUs (s.eraseSector a).mem

/-- The chip write `a = v` is a command that gives the software-ID flag the value `b` (R102, R108, R110). -/
inductive IdCommand (a : Nat) (v : Byte) (s : State) : Bool → Prop where
  | entry (hst : s.stage = .wait2) (hcmd : isCommand 0x5555 0x90#8 a v) : IdCommand a v s true
  | exitShort (hst : s.stage = .wait0) (hv : v = 0xF0#8) : IdCommand a v s false
  | exitLong (hst : s.stage = .wait2) (hcmd : isCommand 0x5555 0xF0#8 a v) : IdCommand a v s false

/-- `d` is a deadline that a program or erase of busy time `us` can leave: the old one, or, with delays enabled,
that of a window which starts now (R170, R171). -/
def State.MayLeaveDeadline (s : State) (us d : Nat) : Prop :=
  d = s.busyUntilClock ∨ (s.delaysEnabled = true ∧ d = s.clock + busyTicks s.cfg us)

/-- All that a chip write can do, with the program and the two erases as one case (`chipWrite_effect`). -/
inductive ChipWriteEffect (a : Nat) (v : Byte) (s : State) : State → Prop where
  | ignored : ChipWriteEffect a v s s
  | moved (hidle : s.busy = false) (st : Stage) : ChipWriteEffect a v s (s.setStage st)
  | idCommand (hidle : s.busy = false) {b : Bool} (hid : IdCommand a v s b) :
      ChipWriteEffect a v s (s.setSoftwareId b).abortCommand
  | arrayCommand (hidle : s.busy = false) {us d : Nat} {m : Memory} (harr : ArrayCommand a v s us m)
      (hd : s.MayLeaveDeadline us d) (status : Byte) :
      ChipWriteEffect a v s ((s.setMem m).setBusy d status).abortCommand

section
variable {a us : Nat} {v : Byte} {m : Memory} {s t : State}

theorem State.mayLeaveDeadline_startBusy (s : State) (us : Nat) :
    s.MayLeaveDeadline us (if s.delaysEnabled then s.clock + busyTicks s.cfg us else s.busyUntilClock) := by
  split
  · next h => exact .inr ⟨h, rfl⟩
  · exact .inl rfl

/-- The end of an array command: the window starts where `p` holds (R131, R155), and the command ends. -/
theorem ChipWriteEffect.of_arrayCommand (hidle : s.busy = false) (harr : ArrayCommand a v s us m) (p : Prop)
    [Decidable p] (bit : Bool) :
    ChipWriteEffect a v s
      (if p then ((s.setMem m).startBusy us bit).abortCommand else (s.setMem m).abortCommand) := by
  split
  · rw [State.startBusy_eq]
    exact .arrayCommand hidle harr (s.mayLeaveDeadline_startBusy us) _
  · exact .arrayCommand hidle harr (.inl rfl) s.busyStatusByte

theorem State.setMem_programByte_mem (s : State) (a : Nat) (v : Byte) :
    s.setMem (s.programByte a v).mem = s.programByte a v := by
  rw [State.programByte_eq]; rfl

theorem State.setMem_eraseSector_mem (s : State) (a : Nat) :
    s.setMem (s.eraseSector a).mem = s.eraseSector a := by
  rw [State.eraseSector_eq]; rfl

theorem chipWrite_effect (h : chipWrite a v s = .next t) : ChipWriteEffect a v s t := by
  obtain rfl | ⟨hidle, h⟩ := chipWrite_cases h
  · exact .ignored
  · obtain ⟨st, rfl⟩ | ⟨hst, hcmd, rfl⟩ | ⟨hexit, rfl⟩ | ⟨hst, hx⟩ | ⟨hst, hcmd, hx⟩ | ⟨hst, hv, hx⟩ := h
    · exact .moved hidle st
    · exact .idCommand hidle (.entry hst hcmd)
    · obtain ⟨hst, hv⟩ | ⟨hst, hcmd⟩ := hexit
      · exact .idCommand hidle (.exitShort hst hv)
      · exact .idCommand hidle (.exitLong hst hcmd)
    · rw [execProgram_eq, ← State.setMem_programByte_mem] at hx
      cases hx
      exact .of_arrayCommand hidle (.program hst) _ _
    · cases hx
      have heff := ChipWriteEffect.of_arrayCommand hidle (.chipErase hst hcmd) True eraseDataBit
      rw [if_pos trivial] at heff
      exact heff
    · rw [execSectorErase_eq, ← State.setMem_eraseSector_mem] at hx
      cases hx
      exact .of_arrayCommand hidle (.sectorErase hst hv) _ _

/-- A chip write keeps the host's inputs, the script and the bank (R196). -/
theorem ChipWriteEffect.frame (h : ChipWriteEffect a v s t) :
    t.cfg = s.cfg ∧ t.delaysEnabled = s.delaysEnabled ∧ t.clock = s.clock ∧ t.script = s.script ∧
      t.bank = s.bank := by
  cases h <;> exact ⟨rfl, rfl, rfl, rfl, rfl⟩

/-- The memory that a program or an erase leaves is canonical and in the array (R131, R155). -/
theorem ArrayCommand.memory_ok (harr : ArrayCommand a v s us m) (hwf : s.mem.wf)
    (hin : s.mem.within s.cfg.flashSize) : m.wf ∧ m.within s.cfg.flashSize := by
  cases harr with
  | program =>
    rw [State.programByte_eq, State.setMem_mem]
    split
    · next ha => exact ⟨Memory.wf_write hwf _ _, Memory.within_write hin ha _⟩
    · exact ⟨hwf, hin⟩
  | chipErase => exact ⟨Memory.wf_eraseRange hwf _ _, Memory.within_eraseRange hin _ _⟩
  | sectorErase =>
    rw [State.eraseSector_eq, State.setMem_mem]
    split
    · exact ⟨Memory.wf_eraseRange hwf _ _, Memory.within_eraseRange hin _ _⟩
    · exact ⟨hwf, hin⟩

theorem ChipWriteEffect.memory_ok (h : ChipWriteEffect a v s t) (hwf : s.mem.wf)
    (hin : s.mem.within s.cfg.flashSize) : t.mem.wf ∧ t.mem.within s.cfg.flashSize := by
  cases h with
  | arrayCommand _ harr => exact harr.memory_ok hwf hin
  | _ => exact ⟨hwf, hin⟩

/-- After a chip write the chip is as it was, or not busy, or idle at `wait0`: a window starts only as a command
ends (R37). -/
theorem ChipWriteEffect.busy_idle (h : ChipWriteEffect a v s t) (hidle : s.busy = true → s.stage = .wait0)
    (hbusy : t.busy = true) : t.stage = .wait0 := by
  cases h with
  | ignored => exact hidle hbusy
  | moved hnot => exact absurd hbusy (Bool.eq_false_iff.mp hnot)
  | idCommand => rfl
  | arrayCommand => rfl

end

/-! ### What a host operation can do -/

/-- `t` has the command protocol, the deadline, the array and the host's inputs of `s`, and a bank that is that of
`s` or has `BANK_BITS` bits: what a read, a bank write, a snapshot and a change of the delay switch leave. -/
structure KeepsChip (s t : State) : Prop where
  stage          : t.stage = s.stage
  softwareId     : t.softwareId = s.softwareId
  busyUntilClock : t.busyUntilClock = s.busyUntilClock
  mem            : t.mem = s.mem
  cfg            : t.cfg = s.cfg
  clock          : t.clock = s.clock
  script         : t.script = s.script
  bank           : t.bank = s.bank ∨ t.bank ≤ bankMask s.cfg

section
variable {s t : State}

theorem KeepsChip.refl (s : State) : KeepsChip s s := ⟨rfl, rfl, rfl, rfl, rfl, rfl, rfl, .inl rfl⟩

theorem KeepsChip.respond (h : KeepsChip s t) (r : Response) : KeepsChip s (t.respond r) := { h with }

theorem KeepsChip.countDraw (h : KeepsChip s t) : KeepsChip s t.countDraw := { h with }

theorem KeepsChip.setDelays (h : KeepsChip s t) (b : Bool) : KeepsChip s (t.setDelays b) := { h with }

theorem KeepsChip.chipRead (s : State) : KeepsChip s (chipReadState s) := by
  rw [chipReadState_eq]
  split
  · exact ⟨rfl, rfl, rfl, rfl, rfl, rfl, rfl, .inl rfl⟩
  · exact .refl s

theorem KeepsChip.bankShift {v : Byte} (h : execBankShift v s = .next t) : KeepsChip s t := by
  cases h
  exact ⟨rfl, rfl, rfl, rfl, rfl, rfl, rfl, .inr (shiftedBank_le _ _ _)⟩

theorem KeepsChip.windowRead {x : Nat} (h : execWindowRead x s = .next t) : KeepsChip s t := by
  have hread := KeepsChip.chipRead s
  unfold execWindowRead at h
  split at h
  · cases h; exact hread.respond _
  · split at h
    · cases h; exact hread.respond _
    · cases h; exact hread.countDraw.respond _

/-- A host write in the lower portion is the chip write at its flat address (R191). -/
theorem performCycle_bw_lower {x : Nat} (h : s.cfg.inLower x) (v : Byte) :
    performCycle (.bw x v) s = chipWrite (s.flatOf x) v s :=
  performCycle_ok (i := .flashForward x v) (if_pos h)

/-- A host write in the upper portion is a bank write (R192). -/
theorem performCycle_bw_upper {x : Nat} (hl : ¬ s.cfg.inLower x) (hu : s.cfg.inUpper x) (v : Byte) :
    performCycle (.bw x v) s = execBankShift v s :=
  performCycle_ok (i := .bankShift x v) ((if_neg hl).trans (if_pos hu))

/-- A host read in the window is a window read (R194). -/
theorem performCycle_br_window {x : Nat} (h : s.cfg.inWindow x) : performCycle (.br x) s = execWindowRead x s :=
  performCycle_ok (i := .windowRead x) (if_pos h)

/-- A cycle that the decoder rejects is not seen (R43). -/
theorem performCycle_outside {c : Cycle} (h : decode s.cfg s.context c = .error .outsideWindow) :
    performCycle c s = .next s := by
  unfold performCycle
  rw [h]

/-- A bus cycle makes a chip write, the one that `chipWriteOf` names, or keeps the chip (R190, R194). -/
theorem performCycle_effect {c : Cycle} (h : performCycle c s = .next t) :
    (∃ a v, chipWriteOf s.cfg s.bank (.cycle c) = some (a, v) ∧ ChipWriteEffect a v s t) ∨ KeepsChip s t := by
  cases c with
  | cw a v =>
    rw [performCycle_ok rfl, exec_selected] at h
    exact .inl ⟨a, v, rfl, chipWrite_effect h⟩
  | cr a =>
    rw [performCycle_ok rfl, exec_selectedRead] at h
    cases h
    exact .inr ((KeepsChip.chipRead s).respond _)
  | bw x v =>
    by_cases hl : s.cfg.inLower x
    · rw [performCycle_bw_lower hl] at h
      exact .inl ⟨s.flatOf x, v, if_pos hl, chipWrite_effect h⟩
    · by_cases hu : s.cfg.inUpper x
      · rw [performCycle_bw_upper hl hu] at h
        exact .inr (.bankShift h)
      · rw [performCycle_outside (c := .bw x v) ((if_neg hl).trans (if_neg hu))] at h
        cases h
        exact .inr (.refl s)
  | br x =>
    by_cases hw : s.cfg.inWindow x
    · rw [performCycle_br_window hw] at h
      exact .inr (.windowRead h)
    · rw [performCycle_outside (c := .br x) (if_neg hw)] at h
      cases h
      exact .inr (.refl s)

/-- All that a host operation can do. -/
inductive HostEffect (s : State) : HostOp → State → Prop where
  | chipWrite {op : HostOp} {t : State} {a : Nat} {v : Byte}
      (hop : chipWriteOf s.cfg s.bank op = some (a, v)) (h : ChipWriteEffect a v s t) : HostEffect s op t
  | keeps {op : HostOp} {t : State} (h : KeepsChip s t) : HostEffect s op t
  | chipReset : HostEffect s .chipReset s.chipReset
  | hardReset : HostEffect s .hardReset s.hardReset
  | restore {saved : Snapshot} {t : State} (h : s.restore saved = .next t) : HostEffect s (.restore saved) t
  | replaceMemory (image : List Host.Cell) : HostEffect s (.replaceMemory image) (s.replaceMemory image)

theorem perform_effect {op : HostOp} (h : perform op s = .next t) : HostEffect s op t := by
  cases op with
  | cycle c =>
    obtain ⟨a, v, hop, hw⟩ | hk := performCycle_effect h
    · exact .chipWrite hop hw
    · exact .keeps hk
  | chipReset => cases h; exact .chipReset
  | hardReset => cases h; exact .hardReset
  | snapshot => cases h; exact .keeps ((KeepsChip.refl s).respond _)
  | restore saved => exact .restore h
  | replaceMemory image => cases h; exact .replaceMemory image
  | setDelays b => cases h; exact .keeps ((KeepsChip.refl s).setDelays b)

/-- The effect of a step is that of its operation in the state that has begun it. -/
theorem step_effect {acc : Access} {rest : List Access} (hs : s.script = acc :: rest) (h : step s = .next t) :
    HostEffect (s.begin acc.t rest) acc.op t := by
  have hwf : s.cfg.wf := (step_next h).1
  exact perform_effect ((step_perform hwf hs).symm.trans h)

/-! ### The structural invariant (R28, R29) -/

theorem HostEffect.keeps_inv {op : HostOp} (h : HostEffect s op t) (hi : Inv s) : Inv t := by
  cases h with
  | chipWrite _ hw =>
    obtain ⟨hcfg, -, -, -, hbank⟩ := hw.frame
    obtain ⟨hwf, hin⟩ := hw.memory_ok hi.memWf hi.memWithin
    exact ⟨hcfg ▸ hi.cfgWf, hwf, hcfg ▸ hin, hcfg ▸ hbank ▸ hi.bankFits⟩
  | keeps hk =>
    have hbank : t.bank ≤ bankMask s.cfg := hk.bank.elim (fun h => h ▸ hi.bankFits) id
    exact ⟨hk.cfg ▸ hi.cfgWf, hk.mem ▸ hi.memWf, hk.cfg ▸ hk.mem ▸ hi.memWithin, hk.cfg ▸ hbank⟩
  | chipReset => exact hi.of_fields_eq rfl rfl rfl
  | hardReset => exact ⟨hi.cfgWf, hi.memWf, hi.memWithin, s.chipReset.drawnBank_le⟩
  | restore hr =>
    obtain ⟨st, -, hbank, rfl⟩ := State.restore_next hr
    exact ⟨hi.cfgWf, Memory.wf_ofCells _ _, Memory.within_ofCells _ _, hbank⟩
  | replaceMemory image => exact ⟨hi.cfgWf, Memory.wf_ofCells _ _, Memory.within_ofCells _ _, hi.bankFits⟩

/-! ### Busy implies idle (R37) -/

/-- Every operation leaves the clock and the script as the begin of the step set them. -/
theorem HostEffect.clock_script {op : HostOp} (h : HostEffect s op t) :
    t.clock = s.clock ∧ t.script = s.script := by
  cases h with
  | chipWrite _ hw =>
    obtain ⟨-, -, hclock, hscript, -⟩ := hw.frame
    exact ⟨hclock, hscript⟩
  | keeps hk => exact ⟨hk.clock, hk.script⟩
  | restore hr =>
    obtain ⟨st, -, -, rfl⟩ := State.restore_next hr
    exact ⟨rfl, rfl⟩
  | chipReset | hardReset | replaceMemory => exact ⟨rfl, rfl⟩

/-- No operation but a restore makes the chip busy with a command in progress. -/
theorem HostEffect.busy_idle {op : HostOp} (h : HostEffect s op t) (hop : op.noRestore = true)
    (hidle : s.busy = true → s.stage = .wait0) (hbusy : t.busy = true) : t.stage = .wait0 := by
  cases h with
  | chipWrite _ hw => exact hw.busy_idle hidle hbusy
  | keeps hk =>
    rw [State.busy_iff, hk.clock, hk.busyUntilClock, ← State.busy_iff] at hbusy
    exact hk.stage.trans (hidle hbusy)
  | chipReset | hardReset => rfl
  | restore => cases hop
  | replaceMemory => exact hidle hbusy

theorem quietScript_cons {n : Nat} {acc : Access} {rest : List Access} :
    quietScript n (acc :: rest) = true ↔
      n ≤ acc.t ∧ acc.op.noRestore = true ∧ quietScript acc.t rest = true := by
  simp [quietScript, and_assoc]

/-- A step that performs an operation keeps "busy implies idle": at the operation's clock, which is not before the
last one, the chip is busy only if it was already. -/
theorem BusyIsIdle.step_cons {acc : Access} {rest : List Access} (hs : s.script = acc :: rest)
    (h : HostEffect (s.begin acc.t rest) acc.op t) (hi : BusyIsIdle s) : BusyIsIdle t := by
  obtain ⟨hle, hop, hrest⟩ := quietScript_cons.mp (hs ▸ hi.quiet)
  obtain ⟨hclock, hscript⟩ := h.clock_script
  have hidle : (s.begin acc.t rest).busy = true → s.stage = .wait0 := fun hb =>
    have hlt : acc.t < s.busyUntilClock := (State.busy_iff _).mp hb
    s.mode_cycle_idle_iff.mp (hi.idle (s.busy_iff.mpr (Nat.lt_of_le_of_lt hle hlt)))
  refine ⟨fun hb => t.mode_cycle_idle_iff.mpr (h.busy_idle hop hidle hb), ?_⟩
  rw [hclock, hscript]
  exact hrest

/-! ### Which operations change a field -/

/-- What the accepted chip write of an operation can be, seen from the software-ID flag (R24). -/
theorem HostEffect.softwareId_changed {op : HostOp} (h : HostEffect s op t) (hop : op.noRestore = true)
    (hne : t.softwareId ≠ s.softwareId) :
    (t.softwareId = false ∧ (op = .chipReset ∨ op = .hardReset)) ∨
      ∃ a v, acceptedWrite s s.clock op a v ∧ IdCommand a v s t.softwareId := by
  cases h with
  | @chipWrite _ _ a v hw heff =>
    cases heff with
    | idCommand hidle hid => exact .inr ⟨a, v, ⟨hw, s.not_busy_iff.mp hidle⟩, hid⟩
    | _ => exact absurd rfl hne
  | keeps hk => exact absurd hk.softwareId hne
  | chipReset => exact .inl ⟨rfl, .inl rfl⟩
  | hardReset => exact .inl ⟨rfl, .inr rfl⟩
  | restore => cases hop
  | replaceMemory => exact absurd rfl hne

/-- Who writes the deadline: a reset, or a window that an accepted array command starts now (R25). -/
theorem HostEffect.deadline_changed {op : HostOp} (h : HostEffect s op t) (hop : op.noRestore = true)
    (hne : t.busyUntilClock ≠ s.busyUntilClock) :
    (t.busyUntilClock = 0 ∧ (op = .chipReset ∨ op = .hardReset)) ∨
      (s.delaysEnabled = true ∧ ∃ a v us m, acceptedWrite s s.clock op a v ∧ ArrayCommand a v s us m ∧
        t.busyUntilClock = s.clock + busyTicks s.cfg us) := by
  cases h with
  | @chipWrite _ _ a v hw heff =>
    cases heff with
    | arrayCommand hidle harr hd =>
      obtain hsame | ⟨hdelays, hnew⟩ := hd
      · exact absurd hsame hne
      · exact .inr ⟨hdelays, a, v, _, _, ⟨hw, s.not_busy_iff.mp hidle⟩, harr, hnew⟩
    | _ => exact absurd rfl hne
  | keeps hk => exact absurd hk.busyUntilClock hne
  | chipReset => exact .inl ⟨rfl, .inl rfl⟩
  | hardReset => exact .inl ⟨rfl, .inr rfl⟩
  | restore => cases hop
  | replaceMemory => exact absurd rfl hne

/-- Who writes the array: the host's two ways of replacing it, or an accepted array command (R28, R53). -/
theorem HostEffect.mem_changed {op : HostOp} (h : HostEffect s op t) (hne : t.mem ≠ s.mem) :
    (∃ saved, op = .restore saved) ∨ (∃ image, op = .replaceMemory image) ∨
      ∃ a v us, acceptedWrite s s.clock op a v ∧ ArrayCommand a v s us t.mem := by
  cases h with
  | @chipWrite _ _ a v hw heff =>
    cases heff with
    | arrayCommand hidle harr => exact .inr (.inr ⟨a, v, _, ⟨hw, s.not_busy_iff.mp hidle⟩, harr⟩)
    | _ => exact absurd rfl hne
  | keeps hk => exact absurd hk.mem hne
  | chipReset | hardReset => exact absurd rfl hne
  | restore => exact .inl ⟨_, rfl⟩
  | replaceMemory image => exact .inr (.inl ⟨image, rfl⟩)

end

/-! ### The obligations of the family -/

/-- Settles O38: each operation keeps the invariant, and beginning it touches none of the invariant's fields. -/
theorem stepKeepsInvariant : Obligations.StepKeepsInvariant := by
  intro s t hi h
  obtain ⟨-, ⟨-, rfl⟩ | ⟨acc, rest, -, hp⟩⟩ := step_next h
  · exact hi
  · exact (perform_effect hp).keeps_inv (hi.of_fields_eq rfl rfl rfl)

/-- Settles O40: a window starts only as a command ends, and while it runs chip writes are ignored. -/
theorem stepKeepsBusyIsIdle : Obligations.StepKeepsBusyIsIdle := by
  intro s t hi h
  obtain ⟨-, ⟨-, rfl⟩ | ⟨acc, rest, hs, hp⟩⟩ := step_next h
  · exact hi
  · exact hi.step_cons hs (perform_effect hp)

/-- Settles O6: the seven pairs are those of the stages, and a restore looks its pair up among them. -/
theorem onlyLegalModeCyclePairsOccur : Obligations.OnlyLegalModeCyclePairsOccur := by
  refine ⟨fun m c => (exists_state_pair_iff m c).trans (mem_stagePairs_iff m c).symm, ?_⟩
  intro s t saved rest hwf hs hbad
  rw [exists_state_pair_iff] at hbad
  rw [step_perform hwf hs]
  exact State.restore_badPair _ hbad

/-- Settles O13: the three outcomes of a restore are the branches of its two tests. -/
theorem snapshotCopiesAndRestoreSetsEveryField : Obligations.SnapshotCopiesAndRestoreSetsEveryField := by
  intro s t rest hwf
  refine ⟨fun hs => step_perform hwf hs, fun saved hs => ?_⟩
  have hstep : step s = (s.begin t rest).restore saved := step_perform hwf hs
  rw [hstep]
  refine ⟨State.restore_badPair _, ?_, ?_⟩
  · rintro ⟨st, hst⟩ hbank
    exact (State.restore_legalPair _ hst).trans (if_neg (Nat.not_le.mpr hbank))
  · rintro ⟨st, hst⟩ hbank
    refine ⟨_, (State.restore_legalPair _ hst).trans (if_pos hbank), hst.1, hst.2, fun a ha => ?_, rfl⟩
    exact (Memory.read_ofCells _ _ a).trans (if_pos ha)

/-- Settles O14: the invariant makes the snapshot legal and its image canonical, so it is taken as it is. -/
theorem restoreUndoesEverythingSinceTheSnapshot : Obligations.RestoreUndoesEverythingSinceTheSnapshot := by
  intro s u hi hcfg
  have hbank : s.snapshot.bank ≤ bankMask u.cfg := hcfg ▸ hi.bankFits
  have hmem : Memory.ofCells u.cfg.flashSize s.snapshot.image = s.mem :=
    hcfg ▸ Memory.ofCells_canonical hi.memWf hi.memWithin
  rw [u.restore_legalPair (saved := s.snapshot) (st := s.stage) ⟨rfl, rfl⟩, if_pos hbank, hmem]
  rfl

/-- Settles O15: the new array is `Memory.ofCells` of the image, and `Memory.read_ofCells` says how it reads. -/
theorem replaceMemoryChangesOnlyTheArray : Obligations.ReplaceMemoryChangesOnlyTheArray := by
  intro s t image rest hwf hs
  refine ⟨_, step_perform hwf hs, fun a ha => ?_, fun a ha => ?_, rfl⟩
  · exact (Memory.read_ofCells _ image a).trans (if_pos ha)
  · exact (Memory.read_ofCells _ image a).trans (if_neg (Nat.not_lt.mpr ha))

/-- Settles O41: of the changes of the flag, a reset clears it, and the rest are software-ID commands. -/
theorem onlyIdCommandsAndResetChangeSoftwareId : Obligations.OnlyIdCommandsAndResetChangeSoftwareId := by
  intro s t acc rest hs hop h hne
  refine ((step_effect hs h).softwareId_changed hop hne).imp id ?_
  rintro ⟨a, v, hacc, hid⟩
  refine ⟨a, v, hacc, ?_⟩
  generalize t.softwareId = b at hid
  cases hid with
  | entry hst hcmd => exact .inl ⟨rfl, hst, hcmd.1, hcmd.2⟩
  | exitShort hst hv => exact .inr ⟨rfl, hv, .inl hst⟩
  | exitLong hst hcmd => exact .inr ⟨rfl, hcmd.2, .inr ⟨hst, hcmd.1⟩⟩

/-- Settles O43: of the writes of the deadline, a reset zeroes it, and the rest are window starts of the three array
commands. -/
theorem deadlineIsWrittenOnlyByCommandsAndReset : Obligations.DeadlineIsWrittenOnlyByCommandsAndReset := by
  intro s t acc rest hs hop h hne
  refine ((step_effect hs h).deadline_changed hop hne).imp id ?_
  rintro ⟨hdelays, a, v, us, m, hacc, harr, hnew⟩
  refine ⟨hacc.2, hdelays, a, v, hacc, ?_⟩
  cases harr with
  | program hst => exact .inl ⟨hst, hnew⟩
  | chipErase hst hcmd => exact .inr (.inl ⟨hst, hcmd.1, hcmd.2, hnew⟩)
  | sectorErase hst hv => exact .inr (.inr ⟨hst, hv, hnew⟩)

/-- Settles O44: of the changes of the array, two are the host's own, and the rest are array commands. -/
theorem onlyProgramAndEraseChangeMemory : Obligations.OnlyProgramAndEraseChangeMemory := by
  intro s t acc rest hs h hne
  refine ((step_effect hs h).mem_changed hne).imp id (Or.imp id ?_)
  rintro ⟨a, v, us, hacc, harr⟩
  refine ⟨a, v, hacc, ?_⟩
  generalize t.mem = m at harr
  cases harr with
  | program hst => exact .inl hst
  | chipErase hst hcmd => exact .inr ⟨hst, .inl hcmd⟩
  | sectorErase hst hv => exact .inr ⟨hst, .inr hv⟩

/-- Settles O7: the decode context of the begun state is the one at the operation's clock. -/
theorem stepRunsTheDecodedInstruction : Obligations.StepRunsTheDecodedInstruction := by
  intro s t c rest i hwf hs hdec
  exact (step_perform hwf hs).trans (performCycle_ok (s := s.begin t rest) hdec)

/-- Settles O12: the fields are those of power-on, and the bank is a draw. -/
theorem resetLeavesTheChipIdle : Obligations.ResetLeavesTheChipIdle :=
  ⟨rfl, rfl, rfl, rfl, rfl, State.reset_bank_le, Nat.not_lt_zero⟩

/-- Settles O16: the step is `State.setDelays` in the begun state. -/
theorem delaySwitchChangesOnlyItself : Obligations.DelaySwitchChangesOnlyItself :=
  fun _ _ _ _ hwf hs => step_perform hwf hs

/-- Settles O39: at power-on the deadline is 0, so the chip is not busy, and the script's premises are given. -/
theorem busyIsIdleHoldsAtPowerOn : Obligations.BusyIsIdleHoldsAtPowerOn :=
  fun _ _ _ _ _ hquiet => ⟨fun _ => ⟨rfl, rfl⟩, hquiet⟩

end Sys2Proof.Machine
end

section
/-! PROOFS. The memory family (20_memory.md): the 15 address bits of the command decode, and the accesses that the
window does not take. -/

namespace Sys2Proof

/-! ### The command address -/

/-- Masking with `CMD_ADDR_MASK` is the remainder modulo `0x8000` (R47). -/
theorem cmdAddr_eq_mod (a : Nat) : cmdAddr a = a % 0x8000 := Nat.and_two_pow_sub_one_eq_mod a 15

/-- A write's row depends on its address only through the command address (R47). -/
theorem selectWrite_congr_cmdAddr {a b : Nat} (h : cmdAddr a = cmdAddr b) (ctx : Context) (v : Byte) :
    selectWrite ctx a v = selectWrite ctx b v := by
  unfold selectWrite
  rw [h]

/-- The software-ID flag takes no part in a write's row (R62). -/
theorem selectWrite_softwareId (ctx : Context) (sid : Bool) (a : Nat) (v : Byte) :
    selectWrite { ctx with softwareId := sid } a v = selectWrite ctx a v := rfl

/-! ### Outside the window -/

/-- The lower portion lies in the window because R7 bounds the split by the window size (R43). -/
theorem Config.inWindow_of_inLower {c : Config} (hsplit : c.split ≤ c.windowSize) {h : Nat} (hl : c.inLower h) :
    c.inWindow h :=
  ⟨hl.1, Nat.lt_of_lt_of_le hl.2 (Nat.add_le_add_left hsplit _)⟩

/-- The upper portion lies in the window, whatever the split (R43). -/
theorem Config.inWindow_of_inUpper {c : Config} {h : Nat} (hu : c.inUpper h) : c.inWindow h :=
  ⟨Nat.le_trans (Nat.le_add_right _ _) hu.1, hu.2⟩

/-- A host write outside the window is in neither portion, so it decodes to nothing (R43, R190). -/
theorem decode_bw_outside {c : Config} (hsplit : c.split ≤ c.windowSize) {h : Nat} (hout : ¬ c.inWindow h)
    (ctx : Context) (v : Byte) : decode c ctx (.bw h v) = .error .outsideWindow :=
  (if_neg (mt (Config.inWindow_of_inLower hsplit) hout)).trans (if_neg (mt Config.inWindow_of_inUpper hout))

/-- A host read outside the window decodes to nothing (R43). -/
theorem decode_br_outside {c : Config} {h : Nat} (hout : ¬ c.inWindow h) (ctx : Context) :
    decode c ctx (.br h) = .error .outsideWindow :=
  if_neg hout

end Sys2Proof

namespace Sys2Proof.Machine

/-! ### The obligations of the family -/

/-- Settles O5: the command address is the address modulo `0x8000`, and a row is selected through it alone. -/
theorem commandDecodeIgnoresHighAddressBits : Obligations.CommandDecodeIgnoresHighAddressBits := by
  refine ⟨fun a => by rw [cmdAddr_eq_mod], fun ctx sid a b v hab => ?_⟩
  have hca : cmdAddr a = cmdAddr b := by rw [cmdAddr_eq_mod, cmdAddr_eq_mod, hab]
  rw [selectWrite_softwareId]
  exact selectWrite_congr_cmdAddr hca ctx v

/-- Settles O8: the decoder rejects a host access outside the window, so the step only begins the operation. -/
theorem accessOutsideTheWindowIsNotSeen : Obligations.AccessOutsideTheWindowIsNotSeen := by
  intro s t h v rest c hwf hc hs hout
  have hnot : ¬ s.cfg.inWindow h := by
    rintro ⟨hlo, hhi⟩
    exact hout.elim (Nat.not_lt.mpr hlo) (Nat.not_le.mpr hhi)
  have hdec : decode s.cfg (s.begin t rest).context c = .error .outsideWindow := by
    obtain ⟨-, hsplit, -⟩ := hwf
    obtain rfl | rfl := hc
    · exact decode_bw_outside hsplit hnot _ v
    · exact decode_br_outside hnot _
  exact (step_perform hwf hs).trans (performCycle_outside hdec)

end Sys2Proof.Machine
end

section
/-! PROOFS. The encoding family (30_encoding.md): the two round trips of decoder and encoder. -/

namespace Sys2Proof

/-! ### The row that a context and a cycle select -/

section
variable {ctx : Context} {a : Nat} {v : Byte}

/-- The row that `ChipWrite` selects has its operand conditions and its context met (R60, R63). -/
theorem selectWrite_fits (c : Config) (ctx : Context) (a : Nat) (v : Byte) :
    ((selectWrite ctx a v).instr a v).wellFormed c = true ∧
      ((selectWrite ctx a v).instr a v).inContext ctx = true := by
  cases hb : ctx.busy with
  | true =>
    rw [selectWrite_busy hb]
    exact ⟨rfl, decide_eq_true hb⟩
  | false =>
    cases hst : ctx.stage with
    | wait0 =>
      have hidle : ctx.idleAt .wait0 := ⟨hb, hst⟩
      rw [selectWrite_wait0 hidle]
      split_ifs with hcmd hv
      · exact ⟨decide_eq_true hcmd, decide_eq_true hidle⟩
      · exact ⟨decide_eq_true hv, decide_eq_true hidle⟩
      · exact ⟨decide_eq_true ⟨hcmd, hv⟩, decide_eq_true hidle⟩
    | wait1 =>
      have hidle : ctx.idleAt .wait1 := ⟨hb, hst⟩
      rw [selectWrite_wait1 hidle]
      split_ifs with hcmd
      · exact ⟨decide_eq_true hcmd, decide_eq_true hidle⟩
      · exact ⟨decide_eq_true hcmd, decide_eq_true hidle⟩
    | wait2 =>
      have hidle : ctx.idleAt .wait2 := ⟨hb, hst⟩
      rw [selectWrite_wait2 hidle, ite_not]
      split_ifs with hca hErase hEntry hProgram hExit
      · exact ⟨decide_eq_true ⟨hca, hErase⟩, decide_eq_true hidle⟩
      · exact ⟨decide_eq_true ⟨hca, hEntry⟩, decide_eq_true hidle⟩
      · exact ⟨decide_eq_true ⟨hca, hProgram⟩, decide_eq_true hidle⟩
      · exact ⟨decide_eq_true ⟨hca, hExit⟩, decide_eq_true hidle⟩
      · exact ⟨decide_eq_true ⟨hca, hErase, hEntry, hProgram, hExit⟩, decide_eq_true hidle⟩
      · exact ⟨decide_eq_true hca, decide_eq_true hidle⟩
    | write3 =>
      have hidle : ctx.idleAt .write3 := ⟨hb, hst⟩
      rw [selectWrite_write3 hidle]
      exact ⟨rfl, decide_eq_true hidle⟩
    | erase3 =>
      have hidle : ctx.idleAt .erase3 := ⟨hb, hst⟩
      rw [selectWrite_erase3 hidle]
      split_ifs with hcmd
      · exact ⟨decide_eq_true hcmd, decide_eq_true hidle⟩
      · exact ⟨decide_eq_true hcmd, decide_eq_true hidle⟩
    | erase4 =>
      have hidle : ctx.idleAt .erase4 := ⟨hb, hst⟩
      rw [selectWrite_erase4 hidle]
      split_ifs with hcmd
      · exact ⟨decide_eq_true hcmd, decide_eq_true hidle⟩
      · exact ⟨decide_eq_true hcmd, decide_eq_true hidle⟩
    | erase5 =>
      have hidle : ctx.idleAt .erase5 := ⟨hb, hst⟩
      rw [selectWrite_erase5 hidle]
      split_ifs with hcmd hv
      · exact ⟨decide_eq_true hcmd, decide_eq_true hidle⟩
      · exact ⟨decide_eq_true hv, decide_eq_true hidle⟩
      · exact ⟨decide_eq_true ⟨hcmd, hv⟩, decide_eq_true hidle⟩

/-- A `CW` row whose operand conditions and context are met is the row that `ChipWrite` selects: the conditions of
the rows of one context exclude each other (R60, R63). -/
theorem selectWrite_of_fits {c : Config} {r : WriteRow} (hwf : (r.instr a v).wellFormed c = true)
    (hctx : (r.instr a v).inContext ctx = true) : selectWrite ctx a v = r := by
  cases r with
  | busyIgnore => exact selectWrite_busy (of_decide_eq_true hctx) a v
  | unlock1 =>
    rw [selectWrite_wait0 (of_decide_eq_true hctx), if_pos (of_decide_eq_true hwf)]
  | idExitShort =>
    obtain rfl : v = 0xF0#8 := of_decide_eq_true hwf
    rw [selectWrite_wait0 (of_decide_eq_true hctx), if_neg (fun hcmd => absurd hcmd.2 (by decide)), if_pos rfl]
  | ignoreAt0 =>
    obtain ⟨hcmd, hv⟩ := of_decide_eq_true hwf
    rw [selectWrite_wait0 (of_decide_eq_true hctx), if_neg hcmd, if_neg hv]
  | unlock2 => rw [selectWrite_wait1 (of_decide_eq_true hctx), if_pos (of_decide_eq_true hwf)]
  | abortAt1 => rw [selectWrite_wait1 (of_decide_eq_true hctx), if_neg (of_decide_eq_true hwf)]
  | eraseSetup | idEntry | programSetup | idExitLong =>
    obtain ⟨hca, rfl⟩ := of_decide_eq_true hwf
    rw [selectWrite_wait2 (of_decide_eq_true hctx), if_neg (not_not.mpr hca)]
    rfl
  | abortAt2Cmd =>
    obtain ⟨hca, hErase, hEntry, hProgram, hExit⟩ := of_decide_eq_true hwf
    rw [selectWrite_wait2 (of_decide_eq_true hctx), if_neg (not_not.mpr hca), if_neg hErase, if_neg hEntry,
      if_neg hProgram, if_neg hExit]
  | abortAt2Addr => rw [selectWrite_wait2 (of_decide_eq_true hctx), if_pos (of_decide_eq_true hwf)]
  | program => exact selectWrite_write3 (of_decide_eq_true hctx) a v
  | eraseUnlock1 => rw [selectWrite_erase3 (of_decide_eq_true hctx), if_pos (of_decide_eq_true hwf)]
  | abortAtE3 => rw [selectWrite_erase3 (of_decide_eq_true hctx), if_neg (of_decide_eq_true hwf)]
  | eraseUnlock2 => rw [selectWrite_erase4 (of_decide_eq_true hctx), if_pos (of_decide_eq_true hwf)]
  | abortAtE4 => rw [selectWrite_erase4 (of_decide_eq_true hctx), if_neg (of_decide_eq_true hwf)]
  | chipErase => rw [selectWrite_erase5 (of_decide_eq_true hctx), if_pos (of_decide_eq_true hwf)]
  | sectorErase =>
    obtain rfl : v = 0x30#8 := of_decide_eq_true hwf
    rw [selectWrite_erase5 (of_decide_eq_true hctx), if_neg (fun hcmd => absurd hcmd.2 (by decide)), if_pos rfl]
  | eraseNone =>
    obtain ⟨hcmd, hv⟩ := of_decide_eq_true hwf
    rw [selectWrite_erase5 (of_decide_eq_true hctx), if_neg hcmd, if_neg hv]

/-- The row that `ChipRead` selects has its context met (R80). -/
theorem selectRead_inContext (ctx : Context) (a : Nat) : ((selectRead ctx).instr a).inContext ctx = true := by
  unfold selectRead
  split_ifs with hid hb
  · exact decide_eq_true hid
  · exact decide_eq_true ⟨eq_false_of_ne_true hid, hb⟩
  · exact decide_eq_true ⟨eq_false_of_ne_true hid, eq_false_of_ne_true hb⟩

/-- A `CR` row whose context is met is the row that `ChipRead` selects (R80). -/
theorem selectRead_of_inContext {r : ReadRow} (hctx : (r.instr a).inContext ctx = true) : selectRead ctx = r := by
  unfold selectRead
  cases r with
  | readId => exact if_pos (of_decide_eq_true hctx)
  | readStatus | readArray =>
    obtain ⟨hid, hb⟩ := of_decide_eq_true hctx
    rw [hid, hb]
    rfl

end

/-! ### The two round trips -/

section
variable {c : Config} {ctx : Context} {a h : Nat} {v : Byte}

theorem encode_writeRow (r : WriteRow) (a : Nat) (v : Byte) : encode (r.instr a v) = .cw a v := by
  cases r <;> rfl

theorem encode_readRow (r : ReadRow) (a : Nat) : encode (r.instr a) = .cr a := by
  cases r <;> rfl

theorem readRow_wellFormed (c : Config) (r : ReadRow) (a : Nat) : (r.instr a).wellFormed c = true := by
  cases r <;> rfl

theorem decode_cw_of_fits (r : WriteRow) (hwf : (r.instr a v).wellFormed c = true)
    (hctx : (r.instr a v).inContext ctx = true) : decode c ctx (.cw a v) = .ok (r.instr a v) := by
  rw [← selectWrite_of_fits hwf hctx]
  rfl

theorem decode_cr_of_inContext (r : ReadRow) (hctx : (r.instr a).inContext ctx = true) :
    decode c ctx (.cr a) = .ok (r.instr a) := by
  rw [← selectRead_of_inContext hctx]
  rfl

theorem decode_bw_lower (hl : c.inLower h) (ctx : Context) (v : Byte) :
    decode c ctx (.bw h v) = .ok (.flashForward h v) :=
  if_pos hl

/-- The upper portion begins where the lower ends, so its writes are not the flash's (R190). -/
theorem decode_bw_upper (hu : c.inUpper h) (ctx : Context) (v : Byte) :
    decode c ctx (.bw h v) = .ok (.bankShift h v) :=
  (if_neg fun hl => Nat.not_lt.mpr hu.1 hl.2).trans (if_pos hu)

theorem decode_bw_neither (hl : ¬ c.inLower h) (hu : ¬ c.inUpper h) (ctx : Context) (v : Byte) :
    decode c ctx (.bw h v) = .error .outsideWindow :=
  (if_neg hl).trans (if_neg hu)

theorem decode_br_window (hw : c.inWindow h) (ctx : Context) : decode c ctx (.br h) = .ok (.windowRead h) :=
  if_pos hw

/-- The two portions cover the window (R43, R190). -/
theorem Config.inLower_or_inUpper (hw : c.inWindow h) : c.inLower h ∨ c.inUpper h :=
  (Nat.lt_or_ge h (c.windowBase + c.split)).imp (fun hlt => ⟨hw.1, hlt⟩) (fun hge => ⟨hge, hw.2⟩)

/-- Settles O2, row by row: an instruction's conditions are those under which the decoder selects its row. -/
theorem decodeInvertsEncode : Obligations.DecodeInvertsEncode := by
  intro c ctx i hwf hctx
  cases i with
  | busyIgnore a v => exact decode_cw_of_fits .busyIgnore hwf hctx
  | unlock1 a v => exact decode_cw_of_fits .unlock1 hwf hctx
  | idExitShort a v => exact decode_cw_of_fits .idExitShort hwf hctx
  | ignoreAt0 a v => exact decode_cw_of_fits .ignoreAt0 hwf hctx
  | unlock2 a v => exact decode_cw_of_fits .unlock2 hwf hctx
  | abortAt1 a v => exact decode_cw_of_fits .abortAt1 hwf hctx
  | eraseSetup a v => exact decode_cw_of_fits .eraseSetup hwf hctx
  | idEntry a v => exact decode_cw_of_fits .idEntry hwf hctx
  | programSetup a v => exact decode_cw_of_fits .programSetup hwf hctx
  | idExitLong a v => exact decode_cw_of_fits .idExitLong hwf hctx
  | abortAt2Cmd a v => exact decode_cw_of_fits .abortAt2Cmd hwf hctx
  | abortAt2Addr a v => exact decode_cw_of_fits .abortAt2Addr hwf hctx
  | program a v => exact decode_cw_of_fits .program hwf hctx
  | eraseUnlock1 a v => exact decode_cw_of_fits .eraseUnlock1 hwf hctx
  | abortAtE3 a v => exact decode_cw_of_fits .abortAtE3 hwf hctx
  | eraseUnlock2 a v => exact decode_cw_of_fits .eraseUnlock2 hwf hctx
  | abortAtE4 a v => exact decode_cw_of_fits .abortAtE4 hwf hctx
  | chipErase a v => exact decode_cw_of_fits .chipErase hwf hctx
  | sectorErase a v => exact decode_cw_of_fits .sectorErase hwf hctx
  | eraseNone a v => exact decode_cw_of_fits .eraseNone hwf hctx
  | readId a => exact decode_cr_of_inContext .readId hctx
  | readStatus a => exact decode_cr_of_inContext .readStatus hctx
  | readArray a => exact decode_cr_of_inContext .readArray hctx
  | flashForward h v => exact decode_bw_lower (of_decide_eq_true hwf) ctx v
  | bankShift h v => exact decode_bw_upper (of_decide_eq_true hwf) ctx v
  | windowRead h => exact decode_br_window (of_decide_eq_true hwf) ctx

/-- What the decoder reads from a cycle is an instruction of that cycle with its conditions met. -/
theorem decode_ok_fits {k : Cycle} {i : Instr} (hdec : decode c ctx k = .ok i) :
    encode i = k ∧ i.wellFormed c = true ∧ i.inContext ctx = true := by
  cases k with
  | cw a v => cases hdec; exact ⟨encode_writeRow _ a v, selectWrite_fits c ctx a v⟩
  | cr a => cases hdec; exact ⟨encode_readRow _ a, readRow_wellFormed c _ a, selectRead_inContext ctx a⟩
  | bw h v =>
    by_cases hl : c.inLower h
    · cases (decode_bw_lower hl ctx v).symm.trans hdec
      exact ⟨rfl, decide_eq_true hl, rfl⟩
    · by_cases hu : c.inUpper h
      · cases (decode_bw_upper hu ctx v).symm.trans hdec
        exact ⟨rfl, decide_eq_true hu, rfl⟩
      · cases (decode_bw_neither hl hu ctx v).symm.trans hdec
  | br h =>
    by_cases hw : c.inWindow h
    · cases (decode_br_window hw ctx).symm.trans hdec
      exact ⟨rfl, decide_eq_true hw, rfl⟩
    · cases (decode_br_outside hw ctx).symm.trans hdec

/-- A cycle that is rejected is a host access, and outside the window, since the portions cover it (R43). -/
theorem exists_outside_of_decode_error {k : Cycle} (hdec : decode c ctx k = .error .outsideWindow) :
    ∃ h, ¬ c.inWindow h ∧ (k = .br h ∨ ∃ v, k = .bw h v) := by
  cases k with
  | cw a v => cases hdec
  | cr a => cases hdec
  | bw h v =>
    refine ⟨h, fun hw => ?_, .inr ⟨v, rfl⟩⟩
    obtain hl | hu := Config.inLower_or_inUpper hw
    · cases (decode_bw_lower hl ctx v).symm.trans hdec
    · cases (decode_bw_upper hu ctx v).symm.trans hdec
  | br h =>
    refine ⟨h, fun hw => ?_, .inl rfl⟩
    cases (decode_br_window hw ctx).symm.trans hdec

/-- Settles O3: the decoder tests the conditions of the row it selects, and rejects what neither portion has. -/
theorem encodeInvertsDecode : Obligations.EncodeInvertsDecode := by
  intro c ctx k hwf
  refine ⟨fun i => decode_ok_fits, exists_outside_of_decode_error, ?_⟩
  obtain ⟨-, hsplit, -⟩ := hwf
  rintro ⟨h, hout, rfl | ⟨v, rfl⟩⟩
  · exact decode_br_outside hout ctx
  · exact decode_bw_outside hsplit hout ctx v

end

end Sys2Proof
end

section
/-! PROOFS. The encoding family (30_encoding.md): the opcode table as data selects what the decoder of R63 selects. -/

namespace Sys2Proof

/-! ### The masked comparison of R60, on the two parts of the compared word -/

/-- Words of 23 bits are equal when their command addresses and their data bytes are. -/
theorem compared_eq_iff_parts (x y : BitVec 23) :
    x = y ↔ x.extractLsb' 8 15 = y.extractLsb' 8 15 ∧ x.extractLsb' 0 8 = y.extractLsb' 0 8 := by
  have hjoin (w : BitVec 23) : w.extractLsb' 8 15 ++ w.extractLsb' 0 8 = w :=
    (BitVec.extractLsb'_append_extractLsb'_eq_extractLsb' rfl).trans BitVec.extractLsb'_eq_self
  refine ⟨fun h => h ▸ ⟨rfl, rfl⟩, fun ⟨haddr, hdata⟩ => ?_⟩
  rw [← hjoin x, haddr, hdata, hjoin]

/-- The command address and the data byte are compared each under its part of the mask. -/
theorem compareWord_and_eq_iff (a : Nat) (v : Byte) (mask k : BitVec 23) :
    compareWord a v &&& mask = k ↔
      cmdAddr a &&& (mask.extractLsb' 8 15).toNat = (k.extractLsb' 8 15).toNat ∧
        v &&& mask.extractLsb' 0 8 = k.extractLsb' 0 8 := by
  rw [compared_eq_iff_parts, BitVec.extractLsb'_and, BitVec.extractLsb'_and, compareWord_addr, compareWord_data,
    ← BitVec.toNat_inj, BitVec.toNat_and, BitVec.toNat_ofNat, Nat.mod_eq_of_lt (cmdAddr_lt a)]

/-- A mask of ones keeps the whole command address. -/
@[simp] theorem cmdAddr_and_ones (a : Nat) : cmdAddr a &&& 0x7FFF = cmdAddr a :=
  Nat.and_two_pow_sub_one_of_lt_two_pow (cmdAddr_lt a)

/-- A mask of ones keeps the whole data byte. -/
@[simp] theorem data_and_ones (v : Byte) : v &&& 0xFF#8 = v := BitVec.and_allOnes

/-! ### The first row in table order -/

/-- The selection of `selectByTable`, from any list of rows. -/
def firstSelected (ctx : Context) (k : BitVec 23) (rows : List TableRow) : Option WriteRow :=
  (rows.find? fun r => r.selects ctx k).map TableRow.row

theorem selectByTable_eq (ctx : Context) (a : Nat) (v : Byte) :
    selectByTable ctx a v = firstSelected ctx (compareWord a v) opcodeTable := rfl

theorem firstSelected_cons (ctx : Context) (k : BitVec 23) (r : TableRow) (rows : List TableRow) :
    firstSelected ctx k (r :: rows) =
      if tableContextHolds ctx r.context = true ∧ k &&& r.mask = r.pattern then some r.row
      else firstSelected ctx k rows := by
  have hsel : r.selects ctx k = true ↔ tableContextHolds ctx r.context = true ∧ k &&& r.mask = r.pattern := by
    simp [TableRow.selects]
  unfold firstSelected
  rw [List.find?_cons, ← if_congr hsel rfl rfl]
  cases r.selects ctx k <;> rfl

/-- While the chip is busy, the first row of the table takes every word (R174). -/
theorem selectByTable_busy {ctx : Context} (h : ctx.busy = true) (a : Nat) (v : Byte) :
    selectByTable ctx a v = some .busyIgnore :=
  (firstSelected_cons ctx (compareWord a v) _ _).trans (if_pos ⟨h, BitVec.and_zero⟩)

/-- While the chip is not busy, only the rows of its stage take part, and each compares the parts of the word that
its mask fixes. -/
theorem firstSelected_idle_cons {ctx : Context} {st : Stage} (h : ctx.idleAt st) (a : Nat) (v : Byte)
    (r : TableRow) (rows : List TableRow) :
    firstSelected ctx (compareWord a v) (r :: rows) =
      if r.context = some st ∧
          cmdAddr a &&& (r.mask.extractLsb' 8 15).toNat = (r.pattern.extractLsb' 8 15).toNat ∧
          v &&& r.mask.extractLsb' 0 8 = r.pattern.extractLsb' 0 8 then some r.row
      else firstSelected ctx (compareWord a v) rows := by
  have hcontext : tableContextHolds ctx r.context = true ↔ r.context = some st := by
    obtain ⟨hb, hst⟩ := h
    cases r.context <;> simp [tableContextHolds, hb, hst, eq_comm]
  simp only [firstSelected_cons, hcontext, compareWord_and_eq_iff]

/-- Settles O4: in each context the rows that stand in it, tested in table order, are the decoder's chain of tests;
at `wait2` the decoder tests the command address first, which every row but the last there fixes. -/
theorem decoderAgreesWithOpcodeTable : Obligations.DecoderAgreesWithOpcodeTable := by
  intro ctx a v
  cases hb : ctx.busy with
  | true => rw [selectByTable_busy hb, selectWrite_busy hb]
  | false =>
    rw [selectByTable_eq, opcodeTable]
    cases hst : ctx.stage with
    | wait0 =>
      rw [selectWrite_wait0 ⟨hb, hst⟩]
      simp [firstSelected_idle_cons ⟨hb, hst⟩, apply_ite some]
    | wait1 =>
      rw [selectWrite_wait1 ⟨hb, hst⟩]
      simp [firstSelected_idle_cons ⟨hb, hst⟩, apply_ite some]
    | wait2 =>
      rw [selectWrite_wait2 ⟨hb, hst⟩]
      by_cases hca : cmdAddr a = 0x5555 <;> simp [firstSelected_idle_cons ⟨hb, hst⟩, apply_ite some, hca]
    | write3 =>
      rw [selectWrite_write3 ⟨hb, hst⟩]
      simp [firstSelected_idle_cons ⟨hb, hst⟩]
    | erase3 =>
      rw [selectWrite_erase3 ⟨hb, hst⟩]
      simp [firstSelected_idle_cons ⟨hb, hst⟩, apply_ite some]
    | erase4 =>
      rw [selectWrite_erase4 ⟨hb, hst⟩]
      simp [firstSelected_idle_cons ⟨hb, hst⟩, apply_ite some]
    | erase5 =>
      rw [selectWrite_erase5 ⟨hb, hst⟩]
      simp [firstSelected_idle_cons ⟨hb, hst⟩, apply_ite some]

end Sys2Proof
end

section
/-! PROOFS. The encoding family (30_encoding.md): the command sequences of R61, and the placed table word. -/

namespace Sys2Proof.Machine

/-! ### How a chip write moves the stage -/

/-- All that the chip write `a = v` can do to the stage `st`: keep it, abort the command, or advance by the command
write that the stage awaits. -/
inductive StageMove (a : Nat) (v : Byte) (st : Stage) : Stage → Prop where
  | keep : StageMove a v st st
  | abort : StageMove a v st .wait0
  | unlock1 (hst : st = .wait0) (hcmd : isCommand 0x5555 0xAA#8 a v) : StageMove a v st .wait1
  | unlock2 (hst : st = .wait1) (hcmd : isCommand 0x2AAA 0x55#8 a v) : StageMove a v st .wait2
  | programSetup (hst : st = .wait2) (hcmd : isCommand 0x5555 0xA0#8 a v) : StageMove a v st .write3
  | eraseSetup (hst : st = .wait2) (hcmd : isCommand 0x5555 0x80#8 a v) : StageMove a v st .erase3
  | eraseUnlock1 (hst : st = .erase3) (hcmd : isCommand 0x5555 0xAA#8 a v) : StageMove a v st .erase4
  | eraseUnlock2 (hst : st = .erase4) (hcmd : isCommand 0x2AAA 0x55#8 a v) : StageMove a v st .erase5

section
variable {a t : Nat} {v : Byte} {s u : State} {st st' : Stage} {rest : List Access}

/-- Each row of the `CW` format makes one of the moves, since it runs with its conditions met (`selectWrite_fits`). -/
theorem chipWrite_stageMove (h : chipWrite a v s = .next u) : StageMove a v s.stage u.stage := by
  obtain ⟨hwf, hctx⟩ := selectWrite_fits s.cfg s.context a v
  unfold chipWrite at h
  generalize selectWrite s.context a v = r at h hwf hctx
  cases r with
  | busyIgnore | ignoreAt0 => cases h; exact .keep
  | idExitShort | abortAt1 | idEntry | idExitLong | abortAt2Cmd | abortAt2Addr | abortAtE3 | abortAtE4 | chipErase
  | eraseNone => cases h; exact .abort
  | program =>
    rw [execProgram_eq] at h
    cases h
    split <;> exact .abort
  | sectorErase =>
    rw [execSectorErase_eq] at h
    cases h
    split <;> exact .abort
  | unlock1 => cases h; exact .unlock1 (of_decide_eq_true hctx).2 (of_decide_eq_true hwf)
  | unlock2 => cases h; exact .unlock2 (of_decide_eq_true hctx).2 (of_decide_eq_true hwf)
  | programSetup => cases h; exact .programSetup (of_decide_eq_true hctx).2 (of_decide_eq_true hwf)
  | eraseSetup => cases h; exact .eraseSetup (of_decide_eq_true hctx).2 (of_decide_eq_true hwf)
  | eraseUnlock1 => cases h; exact .eraseUnlock1 (of_decide_eq_true hctx).2 (of_decide_eq_true hwf)
  | eraseUnlock2 => cases h; exact .eraseUnlock2 (of_decide_eq_true hctx).2 (of_decide_eq_true hwf)

/-- A chip write as a step moves the stage, and leaves the rest of the script. -/
theorem step_stageMove (hs : s.script = ⟨t, .cycle (.cw a v)⟩ :: rest) (h : step s = .next u) :
    StageMove a v s.stage u.stage ∧ u.script = rest := by
  have hwf : s.cfg.wf := (step_next h).1
  have hw : chipWrite a v (s.begin t rest) = .next u := (step_chipWrite hwf hs).symm.trans h
  have hmove : StageMove a v (s.begin t rest).stage u.stage := chipWrite_stageMove hw
  obtain ⟨-, -, -, hscript, -⟩ := (chipWrite_effect hw).frame
  exact ⟨hmove, hscript⟩

/-- A move advances the cycle by one at most. -/
theorem StageMove.cycle_le (h : StageMove a v st st') : st'.cycle ≤ st.cycle + 1 := by
  cases h with
  | keep => exact Nat.le_succ _
  | abort => exact Nat.zero_le _
  | unlock1 hst | unlock2 hst | programSetup hst | eraseSetup hst | eraseUnlock1 hst | eraseUnlock2 hst =>
    subst hst
    decide

/-- Only the unlock's first byte leads to `wait1` (R101). -/
theorem StageMove.wait0_wait1 (h : StageMove a v .wait0 .wait1) : isCommand 0x5555 0xAA#8 a v := by
  cases h with
  | unlock1 _ hcmd => exact hcmd

/-- Only the unlock's second byte leads to `wait2` (R104). -/
theorem StageMove.wait1_wait2 (h : StageMove a v .wait1 .wait2) : isCommand 0x2AAA 0x55#8 a v := by
  cases h with
  | unlock2 _ hcmd => exact hcmd

/-- Only the two setup commands leave `WaitingForCommand` (R107, R109). -/
theorem StageMove.wait2_setup (h : StageMove a v .wait2 st) (hmode : st.mode ≠ .waitingForCommand) :
    cmdAddr a = 0x5555 ∧ ((v = 0xA0#8 ∧ st = .write3) ∨ (v = 0x80#8 ∧ st = .erase3)) := by
  cases h with
  | keep | abort => exact absurd rfl hmode
  | programSetup _ hcmd => exact ⟨hcmd.1, .inl ⟨hcmd.2, rfl⟩⟩
  | eraseSetup _ hcmd => exact ⟨hcmd.1, .inr ⟨hcmd.2, rfl⟩⟩
  | unlock1 hst | unlock2 hst | eraseUnlock1 hst | eraseUnlock2 hst => cases hst

theorem Stage.three_le_cycle (h : st.mode ≠ .waitingForCommand) : 3 ≤ st.cycle := by
  cases st with
  | wait0 | wait1 | wait2 => exact absurd rfl h
  | write3 | erase3 | erase4 | erase5 => decide

theorem Stage.eq_wait1_of_cycle (h : st.cycle = 1) : st = .wait1 := by
  cases st with
  | wait1 => rfl
  | _ => cases h

theorem Stage.eq_wait2_of_cycle (h : st.cycle = 2) : st = .wait2 := by
  cases st with
  | wait2 => rfl
  | _ => cases h

/-- Three moves from `wait0` leave `WaitingForCommand` only if each advances the cycle by one. -/
theorem StageMove.through_wait1_wait2 {a₁ a₂ a₃ : Nat} {v₁ v₂ v₃ : Byte} {st₁ st₂ st₃ : Stage}
    (h₁ : StageMove a₁ v₁ .wait0 st₁) (h₂ : StageMove a₂ v₂ st₁ st₂) (h₃ : StageMove a₃ v₃ st₂ st₃)
    (hmode : st₃.mode ≠ .waitingForCommand) : st₁ = .wait1 ∧ st₂ = .wait2 := by
  have hc₁ : st₁.cycle ≤ 0 + 1 := h₁.cycle_le
  have hc₂ := h₂.cycle_le
  have hc₃ := h₃.cycle_le
  have hthree := Stage.three_le_cycle hmode
  exact ⟨Stage.eq_wait1_of_cycle (by omega), Stage.eq_wait2_of_cycle (by omega)⟩

end

/-- Settles O46: the cycle rises by one at most per write, so the three writes are the three that advance it. -/
theorem modesAreEnteredOnlyThroughTheUnlock : Obligations.ModesAreEnteredOnlyThroughTheUnlock := by
  intro s t t₁ t₂ t₃ a₁ a₂ a₃ v₁ v₂ v₃ rest hst hs h hmode
  obtain ⟨s₁, hstep₁, h⟩ := steps_split h
  obtain ⟨s₂, hstep₂, h⟩ := steps_split h
  have hstep₃ : step s₂ = .next t := (steps_one s₂).symm.trans h
  obtain ⟨hmove₁, hs₁⟩ := step_stageMove hs hstep₁
  obtain ⟨hmove₂, hs₂⟩ := step_stageMove hs₁ hstep₂
  obtain ⟨hmove₃, -⟩ := step_stageMove hs₂ hstep₃
  rw [hst] at hmove₁
  obtain ⟨hst₁, hst₂⟩ := StageMove.through_wait1_wait2 hmove₁ hmove₂ hmove₃ hmode
  rw [hst₁] at hmove₁ hmove₂
  rw [hst₂] at hmove₂ hmove₃
  exact ⟨hmove₁.wait0_wait1, hmove₂.wait1_wait2, hmove₃.wait2_setup hmode⟩

/-! ### Running the lines of a sequence -/

/-- The chip stands at `st`, is not busy from `t` on, and has `script` to perform. -/
structure Awaits (s : State) (st : Stage) (t : Nat) (script : List Access) : Prop where
  wf     : s.cfg.wf
  stage  : s.stage = st
  idle   : s.busyUntilClock ≤ t
  script : s.script = script

/-- The chip write `a = v`, accepted at `st`, does nothing but move the stage to `st'`. -/
def Advances (a : Nat) (v : Byte) (st st' : Stage) : Prop :=
  ∀ s : State, s.idleAt st → chipWrite a v s = .next (s.setStage st')

section
variable {a t : Nat} {v : Byte} {s : State} {st st' st'' : Stage} {rest : List Access}

/-- An accepted write whose operands fit a row of the stage is the row's instruction. -/
theorem chipWrite_of_fits (r : WriteRow) (hwf : (r.instr a v).wellFormed s.cfg = true)
    (hctx : (r.instr a v).inContext s.context = true) : chipWrite a v s = exec (r.instr a v) s := by
  rw [← exec_selected, selectWrite_of_fits hwf hctx]

theorem advances_unlock1 : Advances 0x5555 0xAA#8 .wait0 .wait1 :=
  fun _ h => chipWrite_of_fits .unlock1 rfl (decide_eq_true h)

theorem advances_unlock2 : Advances 0x2AAA 0x55#8 .wait1 .wait2 :=
  fun _ h => chipWrite_of_fits .unlock2 rfl (decide_eq_true h)

theorem advances_programSetup : Advances 0x5555 0xA0#8 .wait2 .write3 :=
  fun _ h => chipWrite_of_fits .programSetup rfl (decide_eq_true h)

theorem advances_eraseSetup : Advances 0x5555 0x80#8 .wait2 .erase3 :=
  fun _ h => chipWrite_of_fits .eraseSetup rfl (decide_eq_true h)

theorem advances_eraseUnlock1 : Advances 0x5555 0xAA#8 .erase3 .erase4 :=
  fun _ h => chipWrite_of_fits .eraseUnlock1 rfl (decide_eq_true h)

theorem advances_eraseUnlock2 : Advances 0x2AAA 0x55#8 .erase4 .erase5 :=
  fun _ h => chipWrite_of_fits .eraseUnlock2 rfl (decide_eq_true h)

theorem Awaits.begin_idleAt {script : List Access} (h : Awaits s st t script) (rest : List Access) :
    (s.begin t rest).idleAt st :=
  ⟨(State.not_busy_iff _).mpr h.idle, h.stage⟩

/-- The last write of a sequence: its row's instruction at its clock. -/
theorem Awaits.step_row (h : Awaits s st t (lineCW t a v :: rest)) (r : WriteRow)
    (hwf : (r.instr a v).wellFormed s.cfg = true)
    (hctx : ∀ ctx : Context, ctx.idleAt st → (r.instr a v).inContext ctx = true) :
    step s = exec (r.instr a v) (s.begin t rest) :=
  (step_chipWrite h.wf h.script).trans (chipWrite_of_fits r hwf (hctx _ (h.begin_idleAt rest)))

/-- A write that advances the stage: the next line is awaited at the next clock value. -/
theorem Awaits.advance (h : Awaits s st t (lineCW t a v :: rest)) (hadv : Advances a v st st') :
    step s = .next ((s.begin t rest).setStage st') ∧
      Awaits ((s.begin t rest).setStage st') st' (t + 1) rest :=
  ⟨(step_chipWrite h.wf h.script).trans (hadv _ (h.begin_idleAt rest)),
    h.wf, rfl, Nat.le_succ_of_le h.idle, rfl⟩

/-- The two writes of `UNLOCK` (R68), at either stage that awaits them. -/
theorem Awaits.unlock (h : Awaits s st t (scriptUnlock t ++ rest)) (hfirst : Advances 0x5555 0xAA#8 st st')
    (hsecond : Advances 0x2AAA 0x55#8 st' st'') (n : Nat) :
    steps (n + 2) s = steps n ((s.begin (t + 1) rest).setStage st'') ∧
      Awaits ((s.begin (t + 1) rest).setStage st'') st'' (t + 2) rest := by
  obtain ⟨hstep₁, h₁⟩ := h.advance hfirst
  obtain ⟨hstep₂, h₂⟩ := h₁.advance hsecond
  exact ⟨(steps_succ _ hstep₁).trans (steps_succ _ hstep₂), h₂⟩

/-- `UNLOCK` at `wait0` and the command write after it. -/
theorem Awaits.setup {d : Byte} (h : Awaits s .wait0 t (scriptUnlock t ++ lineCW (t + 2) a d :: rest))
    (hsetup : Advances a d .wait2 st) (n : Nat) :
    steps (n + 3) s = steps n ((s.begin (t + 2) rest).setStage st) ∧
      Awaits ((s.begin (t + 2) rest).setStage st) st (t + 3) rest := by
  obtain ⟨hunlock, h₂⟩ := h.unlock advances_unlock1 advances_unlock2 (n + 1)
  obtain ⟨hstep, h₃⟩ := h₂.advance hsetup
  exact ⟨hunlock.trans (steps_succ n hstep), h₃⟩

/-- The five writes before an erase command byte (R61). -/
theorem Awaits.eraseUnlock (h : Awaits s .wait0 t (scriptEraseUnlock t ++ rest)) (n : Nat) :
    steps (n + 5) s = steps n ((s.begin (t + 4) rest).setStage .erase5) ∧
      Awaits ((s.begin (t + 4) rest).setStage .erase5) .erase5 (t + 5) rest := by
  obtain ⟨hsetup, h₃⟩ := Awaits.setup (rest := scriptUnlock (t + 3) ++ rest) h advances_eraseSetup (n + 2)
  obtain ⟨hunlock, h₅⟩ := h₃.unlock advances_eraseUnlock1 advances_eraseUnlock2 n
  exact ⟨hsetup.trans hunlock, h₅⟩

end

/-- Settles O47: every write of a sequence but the last only advances the stage. -/
theorem programAndEraseSequencesReachTheirEffect : Obligations.ProgramAndEraseSequencesReachTheirEffect := by
  intro s t a d rest hwf hst hidle
  refine ⟨fun hs => ?_, fun hs => ?_, fun hs => ?_⟩
  · have h₀ : Awaits s .wait0 t (scriptProgram t a d ++ rest) := ⟨hwf, hst, hidle, hs⟩
    obtain ⟨hrun, h₃⟩ := Awaits.setup (rest := lineCW (t + 3) a d :: rest) h₀ advances_programSetup 1
    exact (hrun.trans (steps_one _)).trans (h₃.step_row .program rfl fun _ => decide_eq_true)
  · have h₀ : Awaits s .wait0 t (scriptEraseUnlock t ++ lineCW (t + 5) a 0x30#8 :: rest) :=
      ⟨hwf, hst, hidle, hs⟩
    obtain ⟨hrun, h₅⟩ := h₀.eraseUnlock 1
    exact (hrun.trans (steps_one _)).trans (h₅.step_row .sectorErase rfl fun _ => decide_eq_true)
  · have h₀ : Awaits s .wait0 t (scriptEraseUnlock t ++ lineCW (t + 5) 0x5555 0x10#8 :: rest) :=
      ⟨hwf, hst, hidle, hs⟩
    obtain ⟨hrun, h₅⟩ := h₀.eraseUnlock 1
    exact (hrun.trans (steps_one _)).trans (h₅.step_row .chipErase rfl fun _ => decide_eq_true)

/-- A command that ends with the software-ID flag at `b` leaves an idle chip's stage as it was. -/
theorem State.idCommand_from_wait0 {s : State} (hst : s.stage = .wait0) (b : Bool) (t : Nat) (rest : List Access) :
    ((s.begin t rest).setSoftwareId b).abortCommand =
      { s with softwareId := b, clock := t, script := rest, response := .nothing } := by
  unfold State.abortCommand State.setStage
  rw [← hst]
  rfl

/-- Settles O48: the unlock only advances the stage, and the commands set or clear the flag and abort to `wait0`. -/
theorem softwareIdSequencesReachTheirEffect : Obligations.SoftwareIdSequencesReachTheirEffect := by
  intro s t a rest hwf hst hidle
  refine ⟨fun hs => ?_, fun hs => ?_, fun hs => ?_⟩
  · have h₀ : Awaits s .wait0 t (scriptUnlock t ++ lineCW (t + 2) 0x5555 0x90#8 :: rest) :=
      ⟨hwf, hst, hidle, hs⟩
    obtain ⟨hrun, h₂⟩ := h₀.unlock advances_unlock1 advances_unlock2 1
    rw [hrun, steps_one, ← State.idCommand_from_wait0 hst]
    exact h₂.step_row .idEntry rfl fun _ => decide_eq_true
  · have h₀ : Awaits s .wait0 t (scriptUnlock t ++ lineCW (t + 2) 0x5555 0xF0#8 :: rest) :=
      ⟨hwf, hst, hidle, hs⟩
    obtain ⟨hrun, h₂⟩ := h₀.unlock advances_unlock1 advances_unlock2 1
    rw [hrun, steps_one, ← State.idCommand_from_wait0 hst]
    exact h₂.step_row .idExitLong rfl fun _ => decide_eq_true
  · have h₀ : Awaits s .wait0 t (lineCW t a 0xF0#8 :: rest) := ⟨hwf, hst, hidle, hs⟩
    rw [← State.idCommand_from_wait0 hst]
    exact h₀.step_row .idExitShort rfl fun _ => decide_eq_true

/-! ### The placed table word -/

/-- The flat address of the chip write that a bare table word of `nbits` bits stands for. -/
def wordAddr (nbits w : Nat) : Nat := tableAddr (w % 2 ^ nbits)

/-- The data byte of that chip write. -/
def wordData (nbits w : Nat) : Byte := tableData (w % 2 ^ nbits)

/-- The state in which a placed chip write `a = v` runs: at its table stage, out of software-ID mode, and at a clock
value that is not before the deadline (log 14). -/
def State.runningPlaced (s : State) (a : Nat) (v : Byte) : State :=
  { s with
    stage := tableStage a v, softwareId := false, clock := max s.clock s.busyUntilClock, response := .nothing }

/-- It runs in the context in which `decodeTableWord` reads it (log 13). -/
theorem State.runningPlaced_context (s : State) (a : Nat) (v : Byte) :
    (s.runningPlaced a v).context = tableContext a v := by
  have hidle : (s.runningPlaced a v).busy = false := (State.not_busy_iff _).mpr (Nat.le_max_right _ _)
  unfold State.context
  rw [hidle]
  rfl

/-- What `decodeTableWord` reads is the row selected in the word's table context (log 13). -/
theorem decodeTableWord_some {nbits w : Nat} {i : Instr} (h : decodeTableWord nbits w = some i) :
    i = (selectWrite (tableContext (wordAddr nbits w) (wordData nbits w)) (wordAddr nbits w)
      (wordData nbits w)).instr (wordAddr nbits w) (wordData nbits w) := by
  unfold decodeTableWord at h
  dsimp only [decode] at h
  split at h
  · exact (Option.some.inj h).symm
  · cases h

/-- The step from a placed word is the word's chip write. -/
theorem step_withFetchWord {s : State} (hwf : s.cfg.wf) (nbits w : Nat) :
    step (s.withFetchWord nbits w) =
      chipWrite (wordAddr nbits w) (wordData nbits w)
        (s.runningPlaced (wordAddr nbits w) (wordData nbits w)) :=
  step_chipWrite (s := s.withFetchWord nbits w) hwf rfl

/-- Settles O49: the step and `decodeTableWord` select the row in one context. -/
theorem placedTableWordRunsNext : Obligations.PlacedTableWordRunsNext := by
  intro s nbits w i hwf hdec
  obtain rfl := decodeTableWord_some hdec
  have hstep := step_withFetchWord hwf nbits w
  generalize wordAddr nbits w = a at hstep ⊢
  generalize wordData nbits w = v at hstep ⊢
  obtain ⟨hwell, hctx⟩ := selectWrite_fits s.cfg (tableContext a v) a v
  rw [← exec_selected, s.runningPlaced_context] at hstep
  exact ⟨s.runningPlaced a v, hstep, rfl, s.runningPlaced_context a v ▸ hctx, hwell⟩

/-- Settles O1: the words and cycles are literals. -/
theorem specWordsDecodeToTheirRows : Obligations.SpecWordsDecodeToTheirRows :=
  ⟨by decide, rfl, rfl, rfl, rfl, rfl, rfl, rfl, rfl, rfl, rfl, rfl⟩

end Sys2Proof.Machine
end

section
/-! PROOFS. The bus-read family (40_bus_read.md): what a chip read selects, and what each of its rows answers. -/

namespace Sys2Proof.Machine

section
variable (s : State) (a : Nat)

/-! ### The row a chip read decodes to (R80) -/

/-- Software-ID mode comes first, busy or not. -/
theorem State.decodesTo_readId (hid : s.softwareId = true) : s.decodesTo (.cr a) (.readId a) :=
  decode_cr_of_inContext .readId (decide_eq_true hid)

theorem State.decodesTo_readStatus (hid : s.softwareId = false) (hbusy : s.clock < s.busyUntilClock) :
    s.decodesTo (.cr a) (.readStatus a) :=
  decode_cr_of_inContext .readStatus (decide_eq_true ⟨hid, s.busy_iff.mpr hbusy⟩)

/-- The deadline itself is no longer busy (R26). -/
theorem State.decodesTo_readArray (hid : s.softwareId = false) (hidle : s.busyUntilClock ≤ s.clock) :
    s.decodesTo (.cr a) (.readArray a) :=
  decode_cr_of_inContext .readArray (decide_eq_true ⟨hid, s.not_busy_iff.mpr hidle⟩)

/-! ### What each row answers (R81 to R83) -/

theorem exec_readId : exec (.readId a) s = .next (s.respond (.chip (.present (idByte s.cfg a)))) := rfl

/-- The byte returned is the one written: the flip comes before the return (R82). -/
theorem exec_readStatus :
    exec (.readStatus a) s =
      .next ((s.setStatus (toggledStatus s.cfg s.busyStatusByte)).respond
        (.chip (.present (toggledStatus s.cfg s.busyStatusByte)))) := rfl

theorem exec_readArray : exec (.readArray a) s = .next (s.respond (.chip .absent)) := rfl

end

/-- Settles O27: the context of each case is that of its row, and the row's answer writes what R81 to R83 name. -/
theorem chipReadPriorityAndResults : Obligations.ChipReadPriorityAndResults := by
  intro s a
  refine ⟨⟨s.decodesTo_readId a, ?_⟩, ⟨s.decodesTo_readStatus a, ?_⟩, ⟨s.decodesTo_readArray a, ?_⟩⟩
  · exact exec_readId s a
  · exact exec_readStatus s a
  · exact exec_readArray s a

end Sys2Proof.Machine
end

section
/-! PROOFS. The command-sequence family (41_command_sequence.md): which writes the rows of the unlock sequences and of
the command dispatch take, and what these rows change. -/

namespace Sys2Proof

/-- The stage that a row writes when it writes nothing else: the rows of the unlock sequences and of the setup commands
(R101, R104, R107, R109, R150, R151), and those that are AbortCommand (R105, R106, R111, R152, R156). -/
def WriteRow.stageOnly : WriteRow → Option Stage
  | .unlock1 => some .wait1
  | .unlock2 => some .wait2
  | .programSetup => some .write3
  | .eraseSetup => some .erase3
  | .eraseUnlock1 => some .erase4
  | .eraseUnlock2 => some .erase5
  | .abortAt1 | .abortAt2Addr | .abortAt2Cmd | .abortAtE3 | .abortAtE4 | .eraseNone => some .wait0
  | _ => none

/-- The value that a row gives the software-ID flag before it aborts (R102, R108, R110). -/
def WriteRow.idFlag : WriteRow → Option Bool
  | .idEntry => some true
  | .idExitShort | .idExitLong => some false
  | _ => none

end Sys2Proof

namespace Sys2Proof.Machine

section
variable {s : State} {r : WriteRow}

/-! ### What the rows change -/

theorem exec_of_stageOnly {st : Stage} (h : r.stageOnly = some st) (a : Nat) (v : Byte) (s : State) :
    exec (r.instr a v) s = .next (s.setStage st) := by
  cases r <;> cases h <;> rfl

theorem exec_of_idFlag {b : Bool} (h : r.idFlag = some b) (a : Nat) (v : Byte) (s : State) :
    exec (r.instr a v) s = .next (s.setSoftwareId b).abortCommand := by
  cases r <;> cases h <;> rfl

theorem exec_busyIgnore (a : Nat) (v : Byte) (s : State) : exec (.busyIgnore a v) s = .next s := rfl

theorem exec_ignoreAt0 (a : Nat) (v : Byte) (s : State) : exec (.ignoreAt0 a v) s = .next s := rfl

/-- A forwarded write has no effect while busy, whatever the flat address is (R174, R191). -/
theorem exec_flashForward_busy (hbusy : s.busy = true) (h : Nat) (v : Byte) :
    exec (.flashForward h v) s = .next s :=
  chipWrite_busy hbusy (s.flatOf h) v

theorem exec_bankShift (h : Nat) (v : Byte) (s : State) :
    exec (.bankShift h v) s = .next (s.setBank (shiftedBank s.cfg s.bank (shiftBit s.cfg v))) := rfl

/-! ### The row a write decodes to -/

theorem State.decodesTo_busyIgnore (hbusy : s.clock < s.busyUntilClock) (a : Nat) (v : Byte) :
    s.decodesTo (.cw a v) (.busyIgnore a v) :=
  decode_cw_of_fits .busyIgnore rfl (decide_eq_true (s.busy_iff.mpr hbusy))

end

/-- Settles O17: each unlock byte is its row's command (R60) at the row's stage, and the row only sets the stage. -/
theorem unlockBytesAdvanceTheCycle : Obligations.UnlockBytesAdvanceTheCycle := by
  intro s a
  refine ⟨⟨fun hidle haddr => ?_, exec_of_stageOnly (r := .unlock1) rfl a _ s⟩,
    ⟨fun hidle haddr => ?_, exec_of_stageOnly (r := .unlock2) rfl a _ s⟩,
    ⟨fun hidle haddr => ?_, exec_of_stageOnly (r := .eraseUnlock1) rfl a _ s⟩,
    ⟨fun hidle haddr => ?_, exec_of_stageOnly (r := .eraseUnlock2) rfl a _ s⟩⟩
  · exact decode_cw_of_fits .unlock1 (decide_eq_true ⟨haddr, rfl⟩) (decide_eq_true hidle)
  · exact decode_cw_of_fits .unlock2 (decide_eq_true ⟨haddr, rfl⟩) (decide_eq_true hidle)
  · exact decode_cw_of_fits .eraseUnlock1 (decide_eq_true ⟨haddr, rfl⟩) (decide_eq_true hidle)
  · exact decode_cw_of_fits .eraseUnlock2 (decide_eq_true ⟨haddr, rfl⟩) (decide_eq_true hidle)

/-- Settles O18: both setup bytes are commands at cycle 2, and their rows only set the stage. -/
theorem setupCommandsEnterTheirModes : Obligations.SetupCommandsEnterTheirModes := by
  intro s a
  refine ⟨⟨fun hidle haddr => ?_, exec_of_stageOnly (r := .eraseSetup) rfl a _ s⟩,
    ⟨fun hidle haddr => ?_, exec_of_stageOnly (r := .programSetup) rfl a _ s⟩⟩
  · exact decode_cw_of_fits .eraseSetup (decide_eq_true ⟨haddr, rfl⟩) (decide_eq_true hidle)
  · exact decode_cw_of_fits .programSetup (decide_eq_true ⟨haddr, rfl⟩) (decide_eq_true hidle)

/-- Settles O19: a write that is not the command its stage waits for fits the abort row of that stage, and the abort
rows only set the stage to `wait0`. -/
theorem abortRowsClearOnlyModeAndCycle : Obligations.AbortRowsClearOnlyModeAndCycle := by
  intro s a v
  refine ⟨⟨rfl, rfl, rfl⟩,
    ⟨fun hidle hnot => ?_, exec_of_stageOnly (r := .abortAt1) rfl a v s⟩,
    ⟨fun hidle haddr => ?_, exec_of_stageOnly (r := .abortAt2Addr) rfl a v s⟩,
    ⟨fun hidle haddr hv => ?_, exec_of_stageOnly (r := .abortAt2Cmd) rfl a v s⟩,
    ⟨fun hidle hnot => ?_, exec_of_stageOnly (r := .abortAtE3) rfl a v s⟩,
    ⟨fun hidle hnot => ?_, exec_of_stageOnly (r := .abortAtE4) rfl a v s⟩⟩
  · exact decode_cw_of_fits .abortAt1 (decide_eq_true hnot) (decide_eq_true hidle)
  · exact decode_cw_of_fits .abortAt2Addr (decide_eq_true haddr) (decide_eq_true hidle)
  · have hbytes : v ≠ 0x80#8 ∧ v ≠ 0x90#8 ∧ v ≠ 0xA0#8 ∧ v ≠ 0xF0#8 := by simpa using hv
    exact decode_cw_of_fits .abortAt2Cmd (decide_eq_true ⟨haddr, hbytes⟩) (decide_eq_true hidle)
  · exact decode_cw_of_fits .abortAtE3 (decide_eq_true hnot) (decide_eq_true hidle)
  · exact decode_cw_of_fits .abortAtE4 (decide_eq_true hnot) (decide_eq_true hidle)

/-- Settles O21: the busy test comes before every other of the decoder, and the bank register is shifted by the
configuration, the bank and the byte alone, so the deadline does not matter to it. -/
theorem busyAndUnrecognisedFirstWritesAreIgnored : Obligations.BusyAndUnrecognisedFirstWritesAreIgnored := by
  intro s a v
  refine ⟨⟨fun hbusy => s.decodesTo_busyIgnore hbusy a v, exec_busyIgnore a v s⟩,
    fun hbusy h => exec_flashForward_busy (s.busy_iff.mpr hbusy) h v,
    fun _ h => ⟨shiftedBank s.cfg s.bank (shiftBit s.cfg v), exec_bankShift h v s, exec_bankShift h v _⟩,
    fun hidle hnot hv => ?_, exec_ignoreAt0 a v s⟩
  exact decode_cw_of_fits .ignoreAt0 (decide_eq_true ⟨hnot, hv⟩) (decide_eq_true hidle)

/-- Settles O22: the three commands are rows that write the flag and abort; the short exit's row asks nothing of the
address. -/
theorem softwareIdCommandsSetAndClearTheFlag : Obligations.SoftwareIdCommandsSetAndClearTheFlag := by
  intro s a
  refine ⟨⟨fun hidle haddr => ?_, exec_of_idFlag (r := .idEntry) rfl a _ s⟩,
    ⟨fun hidle haddr => ?_, exec_of_idFlag (r := .idExitLong) rfl a _ s⟩,
    ⟨fun hidle => ?_, exec_of_idFlag (r := .idExitShort) rfl a _ s⟩⟩
  · exact decode_cw_of_fits .idEntry (decide_eq_true ⟨haddr, rfl⟩) (decide_eq_true hidle)
  · exact decode_cw_of_fits .idExitLong (decide_eq_true ⟨haddr, rfl⟩) (decide_eq_true hidle)
  · exact decode_cw_of_fits .idExitShort rfl (decide_eq_true hidle)

end Sys2Proof.Machine
end

section
/-! PROOFS. The program family (42_program.md): what PROGRAM does to the array and to the window, and that a step which
neither erases nor replaces the array only clears bits. -/

namespace Sys2Proof.Machine

section
variable {s : State}

/-! ### The byte that PROGRAM writes -/

/-- In bounds the byte at the unmasked address is ANDed with the written value (R130); out of bounds no byte changes
(R131). -/
theorem State.read_programByte (hwf : s.mem.wf) (a : Nat) (v : Byte) (b : Nat) :
    (s.programByte a v).mem.read b =
      if b = a ∧ a < s.cfg.flashSize then s.mem.read a &&& v else s.mem.read b := by
  rw [State.programByte_eq, State.setMem_mem]
  by_cases ha : a < s.cfg.flashSize
  · simp only [ha, if_true, and_true, Memory.read_write hwf]
  · simp only [ha, and_false, if_false]

/-- Programming only clears bits: every byte after is a bitwise subset of the byte before. -/
theorem State.programByte_clears_bits (hwf : s.mem.wf) (a : Nat) (v : Byte) (b : Nat) :
    (s.programByte a v).mem.read b &&& s.mem.read b = (s.programByte a v).mem.read b := by
  rw [State.read_programByte hwf]
  split
  · next hb => rw [hb.1, BitVec.and_comm, ← BitVec.and_assoc, BitVec.and_self]
  · exact BitVec.and_self

/-! ### The window and the end of the command -/

/-- The status byte of a program's window shows the complement of bit 7 of the written value (R172). -/
theorem startStatus_programDataBit (c : Config) (v : Byte) :
    startStatus c (programDataBit v) = if v.getLsbD 7 then 0x00#8 else 1#8 <<< c.dataPollBit := by
  have hbit : programDataBit v = !v.getLsbD 7 := BitVec.getLsbD_not
  rw [startStatus, hbit]
  cases v.getLsbD 7 <;> rfl

/-- A program at address `a` starts the busy window: delays are enabled (R171), and the address is in bounds or
`OOB_STARTS_BUSY` holds (R131). -/
abbrev State.programStartsWindow (s : State) (a : Nat) : Prop :=
  s.delaysEnabled = true ∧ (a < s.cfg.flashSize ∨ s.cfg.oobStartsBusy = true)

/-- PROGRAM changes the memory, starts the window or keeps the deadline and the status byte, and ends the command. -/
theorem exec_program (a : Nat) (v : Byte) (s : State) :
    exec (.program a v) s = .next ((s.programByte a v).setBusy
      (if s.programStartsWindow a then s.clock + busyTicks s.cfg s.cfg.programDelayUs else s.busyUntilClock)
      (if s.programStartsWindow a then startStatus s.cfg (programDataBit v) else s.busyStatusByte)).abortCommand := by
  refine (execProgram_eq a v s).trans ?_
  rw [← State.setMem_programByte_mem]
  by_cases hstart : a < s.cfg.flashSize ∨ s.cfg.oobStartsBusy = true
  · simp only [State.programStartsWindow, hstart, and_true, State.startBusy_eq]
    rfl
  · simp only [State.programStartsWindow, hstart, and_false, if_false]
    rfl

/-! ### Array commands that are no erase -/

/-- The chip write `a = v` in the state `s` is one of the two erase commands (R153, R154). -/
def State.eraseCommand (s : State) (a : Nat) (v : Byte) : Prop :=
  s.stage = .erase5 ∧ (isCommand 0x5555 0x10#8 a v ∨ v = 0x30#8)

/-- Of the three array commands, only a program is no erase. -/
theorem ArrayCommand.eq_programByte {a us : Nat} {v : Byte} {m : Memory} (harr : ArrayCommand a v s us m)
    (hnot : ¬ s.eraseCommand a v) : m = (s.programByte a v).mem := by
  cases harr with
  | program => rfl
  | chipErase hst hcmd => exact absurd ⟨hst, .inl hcmd⟩ hnot
  | sectorErase hst hv => exact absurd ⟨hst, .inr hv⟩ hnot

end

/-- Settles O23: every write fits the row PROGRAM at `write3`, and `exec_program` is the row's answer. -/
theorem programAndsTheByteAndStartsTheWindow : Obligations.ProgramAndsTheByteAndStartsTheWindow := by
  intro s a v
  refine ⟨fun hidle => decode_cw_of_fits .program rfl (decide_eq_true hidle), fun hwf => ?_⟩
  refine ⟨_, exec_program a v s, State.read_programByte hwf a v, ?_⟩
  rw [startStatus_programDataBit, ← State.setMem_programByte_mem]
  rfl

/-- Settles O45: a step that changes the array neither by a replacement nor by an erase is a program, and a program
only clears bits. -/
theorem bitsAreSetOnlyByErase : Obligations.BitsAreSetOnlyByErase := by
  intro s t acc rest hwf hs h hrestore hreplace herase b
  by_cases hsame : t.mem = s.mem
  · rw [hsame, BitVec.and_self]
  · obtain ⟨saved, hop⟩ | ⟨image, hop⟩ | ⟨a, v, us, hacc, harr⟩ := (step_effect hs h).mem_changed hsame
    · rw [hop] at hrestore
      cases hrestore
    · exact absurd hop (hreplace image)
    · have hprogram := harr.eq_programByte fun ⟨hst, hcmd⟩ => herase a v hacc hst hcmd
      rw [hprogram]
      exact State.programByte_clears_bits (s := s.begin acc.t rest) hwf a v b

end Sys2Proof.Machine
end

section
/-! PROOFS. The erase family (43_erase.md): which bytes the two erases fill, what they leave otherwise, and the row
that only aborts. -/

namespace Sys2Proof.Machine

section
variable (s : State) (a : Nat)

/-! ### The bytes that an erase fills -/

theorem State.read_eraseChip (b : Nat) :
    s.eraseChip.mem.read b = if b < s.cfg.flashSize then erasedByte else s.mem.read b := by
  rw [State.eraseChip_eq, State.setMem_mem, Memory.read_eraseRange, Nat.zero_add]
  exact if_congr (and_iff_right (Nat.zero_le b)) rfl rfl

/-- In bounds the bytes of the sector are filled (R154); out of bounds no byte changes (R155). -/
theorem State.read_eraseSector (b : Nat) :
    (s.eraseSector a).mem.read b =
      if sectorInBounds s.cfg a ∧ sectorOffset s.cfg a ≤ b ∧ b < sectorOffset s.cfg a + sectorSize then erasedByte
      else s.mem.read b := by
  rw [State.eraseSector_eq, State.setMem_mem]
  by_cases hin : sectorInBounds s.cfg a
  · simp only [hin, if_true, true_and, Memory.read_eraseRange]
  · simp only [hin, if_false, false_and]

/-- The sector mask of a well-formed configuration clears the low 12 bits (R7), so a sector begins at a multiple of its
size. -/
theorem sectorOffset_mod_sectorSize {c : Config} (hmask : c.sectorMask &&& 0xFFF = 0) (a : Nat) :
    sectorOffset c a % sectorSize = 0 :=
  calc sectorOffset c a % sectorSize
      = (a &&& c.sectorMask) &&& 0xFFF := (Nat.and_two_pow_sub_one_eq_mod _ 12).symm
    _ = a &&& (c.sectorMask &&& 0xFFF) := Nat.and_assoc ..
    _ = 0 := by rw [hmask, Nat.and_zero]

/-! ### The window and the end of the command -/

/-- With data# bit 0 the status byte of an erase's window is zero (R153, R154, R172). -/
theorem startStatus_eraseDataBit (c : Config) : startStatus c eraseDataBit = 0x00#8 := rfl

/-- A sector erase at address `a` starts the busy window: delays are enabled (R171), and the sector is in bounds or
`OOB_STARTS_BUSY` holds (R155). -/
abbrev State.sectorEraseStartsWindow (s : State) (a : Nat) : Prop :=
  s.delaysEnabled = true ∧ (sectorInBounds s.cfg a ∨ s.cfg.oobStartsBusy = true)

/-- CHIP_ERASE fills the array, starts the window or keeps the deadline and the status byte, and ends the command. -/
theorem exec_chipErase (v : Byte) :
    exec (.chipErase a v) s = .next (s.eraseChip.setBusy
      (if s.delaysEnabled = true then s.clock + busyTicks s.cfg s.cfg.chipEraseDelayUs else s.busyUntilClock)
      (if s.delaysEnabled = true then 0x00#8 else s.busyStatusByte)).abortCommand := by
  have hexec : exec (.chipErase a v) s =
      .next (s.eraseChip.startBusy s.cfg.chipEraseDelayUs eraseDataBit).abortCommand := rfl
  rw [hexec, State.startBusy_eq, startStatus_eraseDataBit]
  rfl

/-- SECTOR_ERASE fills the sector if it is in bounds, starts the window or keeps the deadline and the status byte, and
ends the command. -/
theorem exec_sectorErase (v : Byte) :
    exec (.sectorErase a v) s = .next ((s.eraseSector a).setBusy
      (if s.sectorEraseStartsWindow a then s.clock + busyTicks s.cfg s.cfg.sectorEraseDelayUs else s.busyUntilClock)
      (if s.sectorEraseStartsWindow a then 0x00#8 else s.busyStatusByte)).abortCommand := by
  refine (execSectorErase_eq a s).trans ?_
  rw [← State.setMem_eraseSector_mem]
  by_cases hstart : sectorInBounds s.cfg a ∨ s.cfg.oobStartsBusy = true
  · simp only [State.sectorEraseStartsWindow, hstart, and_true, State.startBusy_eq]
    rfl
  · simp only [State.sectorEraseStartsWindow, hstart, and_false, if_false]
    rfl

end

/-! ### The obligations of the family -/

/-- Settles O24: the command is CHIP_ERASE's at cycle 5, and `exec_chipErase` is the row's answer. -/
theorem chipEraseFillsTheArray : Obligations.ChipEraseFillsTheArray := by
  intro s a
  refine ⟨fun hidle haddr => ?_, _, exec_chipErase s a _, s.read_eraseChip, rfl⟩
  exact decode_cw_of_fits .chipErase (decide_eq_true ⟨haddr, rfl⟩) (decide_eq_true hidle)

/-- Settles O25: SECTOR_ERASE's row asks nothing of the address, R7 aligns the sector, and `exec_sectorErase` is the
row's answer. -/
theorem sectorEraseFillsTheAlignedSector : Obligations.SectorEraseFillsTheAlignedSector := by
  intro s a
  refine ⟨fun hidle => ?_, fun hwf => ?_, _, exec_sectorErase s a _, s.read_eraseSector a, ?_⟩
  · exact decode_cw_of_fits .sectorErase rfl (decide_eq_true hidle)
  · obtain ⟨-, -, -, -, -, -, -, hmask, -⟩ := hwf
    exact sectorOffset_mod_sectorSize hmask a
  · rw [← State.setMem_eraseSector_mem]
    rfl

/-- Settles O20: the conditions are those of the row ERASE_NONE, which only sets the stage to `wait0`. -/
theorem otherEraseCommandBytesOnlyAbort : Obligations.OtherEraseCommandBytesOnlyAbort := by
  intro s a v
  refine ⟨fun hidle hnot hv => ?_, exec_of_stageOnly (r := .eraseNone) rfl a v s⟩
  exact decode_cw_of_fits .eraseNone (decide_eq_true ⟨hnot, hv⟩) (decide_eq_true hidle)

end Sys2Proof.Machine
end

section
/-! PROOFS. The busy window family (44_busy_window.md): with delays disabled a program or an erase starts no window,
and a window that runs is ended by a reset only. -/

namespace Sys2Proof.Machine

section
variable (s : State) (a : Nat) (v : Byte)

/-! ### The memory changes do not read the delay switch -/

theorem State.programByte_mem_setDelays (b : Bool) :
    ((s.setDelays b).programByte a v).mem = (s.programByte a v).mem := by
  rw [State.programByte_eq, State.programByte_eq]
  rfl

theorem State.eraseSector_mem_setDelays (b : Bool) :
    ((s.setDelays b).eraseSector a).mem = (s.eraseSector a).mem := by
  rw [State.eraseSector_eq, State.eraseSector_eq]
  rfl

/-! ### Programs and erases with delays disabled (R171) -/

variable {s}

/-- Where no window starts, the end of an array command keeps the deadline and the status byte (D29). -/
theorem State.setBusy_of_no_start {p : Prop} [Decidable p] (hp : ¬ p) (m : Memory) (d : Nat) (status : Byte) :
    (s.setMem m).setBusy (if p then d else s.busyUntilClock) (if p then status else s.busyStatusByte) = s.setMem m := by
  rw [if_neg hp, if_neg hp]
  rfl

/-- A window that starts only with delays enabled does not start. -/
theorem State.not_starts_of_disabled (hoff : s.delaysEnabled = false) (q : Prop) : ¬ (s.delaysEnabled = true ∧ q) :=
  fun h => Bool.eq_false_iff.mp hoff h.1

theorem exec_program_disabled (hoff : s.delaysEnabled = false) :
    exec (.program a v) s = .next (s.setMem (s.programByte a v).mem).abortCommand := by
  rw [exec_program, State.setMem_programByte_mem, ← State.setMem_programByte_mem,
    State.setBusy_of_no_start (State.not_starts_of_disabled hoff _)]

theorem exec_chipErase_disabled (hoff : s.delaysEnabled = false) :
    exec (.chipErase a v) s = .next (s.setMem s.eraseChip.mem).abortCommand := by
  have hno : ¬ s.delaysEnabled = true := Bool.eq_false_iff.mp hoff
  rw [exec_chipErase, State.eraseChip_eq, State.setBusy_of_no_start hno, State.setMem_mem]

theorem exec_sectorErase_disabled (hoff : s.delaysEnabled = false) :
    exec (.sectorErase a v) s = .next (s.setMem (s.eraseSector a).mem).abortCommand := by
  rw [exec_sectorErase, State.setMem_eraseSector_mem, ← State.setMem_eraseSector_mem,
    State.setBusy_of_no_start (State.not_starts_of_disabled hoff _)]

end

/-! ### The deadline of a running window -/

/-- An operation, no restore, that changes the deadline while the chip is busy is a reset, which zeroes it: a window
starts only by an accepted write, and none is accepted while busy (R174, R175). -/
theorem HostEffect.deadline_changed_busy {s t : State} {op : HostOp} (h : HostEffect s op t)
    (hop : op.noRestore = true) (hbusy : s.clock < s.busyUntilClock) (hne : t.busyUntilClock ≠ s.busyUntilClock) :
    t.busyUntilClock = 0 ∧ (op = .chipReset ∨ op = .hardReset) := by
  obtain hreset | ⟨-, a, v, us, m, ⟨-, hidle⟩, -⟩ := h.deadline_changed hop hne
  · exact hreset
  · exact absurd hbusy (Nat.not_lt.mpr hidle)

/-! ### The obligations of the family -/

/-- Settles O26: with delays disabled each of the three operations is its memory change and the end of the command, and
the memory change does not read the switch. -/
theorem disabledDelaysStartNoWindow : Obligations.DisabledDelaysStartNoWindow := by
  rintro s a v i hoff (rfl | rfl | rfl)
  · exact ⟨_, _, exec_program_disabled a v hoff, exec_program a v (s.setDelays true),
      (s.programByte_mem_setDelays a v true).symm, rfl⟩
  · exact ⟨_, _, exec_chipErase_disabled a v hoff, exec_chipErase (s.setDelays true) a v, rfl, rfl⟩
  · exact ⟨_, _, exec_sectorErase_disabled a v hoff, exec_sectorErase (s.setDelays true) a v,
      (s.eraseSector_mem_setDelays a true).symm, rfl⟩

/-- Settles O42: AbortCommand sets the stage only, and of the changes of the deadline inside a window a reset is the
only one. -/
theorem onlyResetEndsABusyWindow : Obligations.OnlyResetEndsABusyWindow := by
  refine ⟨State.abortCommand_busyUntilClock, fun s t acc rest hs hop hbusy h => ?_⟩
  by_cases hsame : t.busyUntilClock = s.busyUntilClock
  · exact .inl hsame
  · obtain ⟨hzero, hreset⟩ := (step_effect hs h).deadline_changed_busy hop hbusy hsame
    exact .inr ⟨hreset, fun clock => hzero ▸ Nat.not_lt_zero clock⟩

end Sys2Proof.Machine
end

section
/-! PROOFS. The bank-mux family (45_bank_mux.md): the flat address in the command decode, what a window access does, how
the bank is loaded, and that chip and bank do not affect each other. -/

namespace Sys2Proof

/-! ### The command address of a flat address (R44, R47) -/

theorem cmdAddr_or (a b : Nat) : cmdAddr (a ||| b) = cmdAddr a ||| cmdAddr b :=
  Nat.and_or_distrib_right a b cmdAddrMask

/-- With a page of 32 KiB or more the bank stands above the command address. -/
theorem cmdAddr_shiftLeft_of_le {k : Nat} (hk : 15 ≤ k) (bank : Nat) : cmdAddr (bank <<< k) = 0 := by
  rw [cmdAddr_eq_mod, Nat.shiftLeft_eq]
  exact Nat.mod_eq_zero_of_dvd (Dvd.dvd.mul_left (Nat.pow_dvd_pow 2 hk) bank)

/-- Of a bank above a 16 KiB page the command address has bit 0 only. -/
theorem cmdAddr_shiftLeft_fourteen (bank : Nat) : cmdAddr (bank <<< 14) = (bank &&& 1) <<< 14 := by
  rw [cmdAddr_eq_mod, Nat.shiftLeft_eq, Nat.shiftLeft_eq, Nat.and_one_is_mod]
  exact Nat.mul_mod_mul_right (2 ^ 14) bank 2

end Sys2Proof

namespace Sys2Proof.Machine

/-- A page of 32 KiB or more holds the whole command address. -/
theorem cmdAddr_and_pageMask_of_le {c : Config} (hk : 15 ≤ c.pageShift) (loc : Nat) :
    cmdAddr (loc &&& pageMask c) = cmdAddr loc := by
  rw [cmdAddr_eq_mod, cmdAddr_eq_mod, pageMask, Nat.and_two_pow_sub_one_eq_mod]
  exact Nat.mod_mod_of_dvd loc (Nat.pow_dvd_pow 2 hk)

/-- Under EX the page is 16 KiB, one bit less than the command address (R239). -/
theorem cmdAddr_flatAddr_ex (bank loc : Nat) :
    cmdAddr (flatAddr Config.ex bank loc) = ((bank &&& 1) <<< 14) ||| (loc &&& 0x3FFF) :=
  calc cmdAddr (flatAddr Config.ex bank loc)
      = cmdAddr (loc &&& 0x3FFF) ||| cmdAddr (bank <<< 14) := cmdAddr_or _ _
    _ = (loc &&& 0x3FFF) ||| ((bank &&& 1) <<< 14) := by
        rw [cmdAddr_shiftLeft_fourteen, cmdAddr, Nat.and_assoc]; rfl
    _ = ((bank &&& 1) <<< 14) ||| (loc &&& 0x3FFF) := Nat.or_comm _ _

/-- Under EX bit 14 of the command address is the bank's parity. -/
theorem cmdAddr_flatAddr_ex_shiftRight (bank loc : Nat) :
    cmdAddr (flatAddr Config.ex bank loc) >>> 14 = bank % 2 := by
  have hpage : (loc &&& 0x3FFF) >>> 14 = 0 := by
    rw [Nat.shiftRight_and_distrib]
    exact Nat.and_zero _
  rw [cmdAddr_flatAddr_ex, Nat.shiftRight_or_distrib, Nat.shiftLeft_shiftRight, hpage, Nat.or_zero, Nat.and_one_is_mod]

/-- Settles O35: under EX bit 14 of the command address is the bank's parity, which tells the two unlock addresses
apart; a larger page holds the command address whole. -/
theorem commandAddressDependsOnTheBank : Obligations.CommandAddressDependsOnTheBank := by
  refine ⟨cmdAddr_flatAddr_ex, fun bank loc h => ?_, fun bank loc h => ?_, fun c bank loc hk => ?_⟩
  · rw [← cmdAddr_flatAddr_ex_shiftRight bank loc, h]; rfl
  · rw [← cmdAddr_flatAddr_ex_shiftRight bank loc, h]; rfl
  · rw [flatAddr, cmdAddr_or, cmdAddr_and_pageMask_of_le hk, cmdAddr_shiftLeft_of_le hk, Nat.or_zero]

/-! ### Window accesses (R191, R192, R194) -/

/-- FLASH_FORWARD is the instruction that the chip write at the flat address decodes to. -/
theorem exec_flashForward (h : Nat) (v : Byte) (s : State) :
    exec (.flashForward h v) s = exec ((selectWrite s.context (s.flatOf h) v).instr (s.flatOf h) v) s :=
  (exec_selected (s.flatOf h) v s).symm

section
variable {s : State} {h : Nat}

/-- Software-ID mode comes first, busy or not, and writes nothing (R81). -/
theorem exec_windowRead_softwareId (hid : s.softwareId = true) :
    exec (.windowRead h) s = .next (s.respond (.byte (idByte s.cfg (s.flatOf h)))) := by
  refine (execWindowRead_eq h s).trans ?_
  rw [chipReadResult_eq, if_pos hid, chipReadState_eq, if_neg fun hc => Bool.eq_false_iff.mp hc.1 hid]

/-- A busy read returns the status byte that it writes (R82). -/
theorem exec_windowRead_busy (hid : s.softwareId = false) (hbusy : s.clock < s.busyUntilClock) :
    exec (.windowRead h) s =
      .next ((s.setStatus (toggledStatus s.cfg s.busyStatusByte)).respond
        (.byte (toggledStatus s.cfg s.busyStatusByte))) := by
  have hb : s.busy = true := s.busy_iff.mpr hbusy
  refine (execWindowRead_eq h s).trans ?_
  rw [chipReadResult_eq, if_neg (Bool.eq_false_iff.mp hid), if_pos hb, chipReadState_eq, if_pos ⟨hid, hb⟩]

/-- When the chip is absent the array answers, and beyond it a draw (R46, R83). -/
theorem exec_windowRead_absent (hid : s.softwareId = false) (hidle : s.busyUntilClock ≤ s.clock) :
    exec (.windowRead h) s =
      .next (if s.flatOf h < s.cfg.flashSize then s.respond (.byte (s.mem.read (s.flatOf h)))
        else s.countDraw.respond (.byte s.drawnByte)) := by
  have hb : ¬ s.busy = true := Bool.eq_false_iff.mp (s.not_busy_iff.mpr hidle)
  refine (execWindowRead_eq h s).trans ?_
  rw [chipReadResult_eq, if_neg (Bool.eq_false_iff.mp hid), if_neg hb, chipReadState_eq, if_neg fun hc => hb hc.2]

end

/-- Settles O28: the chip read's three results are the cases, and an absent one leaves the array's bounds to decide. -/
theorem windowReadReturnsChipValueOrArrayByte : Obligations.WindowReadReturnsChipValueOrArrayByte := by
  rintro s h fa rfl
  refine ⟨fun hlo hhi => decode_br_window ⟨hlo, hhi⟩ _, exec_windowRead_softwareId, exec_windowRead_busy,
    fun hid hidle hin => ?_, fun hid hidle hout => ⟨s.drawnByte, ?_⟩⟩
  · rw [exec_windowRead_absent hid hidle]
    exact congrArg _ (if_pos hin)
  · rw [exec_windowRead_absent hid hidle]
    exact congrArg _ (if_neg (Nat.not_lt.mpr hout))

/-- Settles O31: FLASH_FORWARD runs what the decoder selects at the flat address, and a chip write completes and keeps
the bank. -/
theorem flashForwardIsAChipWriteAtTheFlatAddress : Obligations.FlashForwardIsAChipWriteAtTheFlatAddress := by
  rintro s h fa v rfl
  obtain ⟨t, ht⟩ := chipWrite_completes (s.flatOf h) v s
  obtain ⟨-, -, -, -, hbank⟩ := (chipWrite_effect ht).frame
  exact ⟨fun hlo hhi => decode_bw_lower ⟨hlo, hhi⟩ _ v, _, t, rfl, exec_flashForward h v s, ht, hbank⟩

/-- Settles O32: an upper write's row is BANK_SHIFT, which only sets the bank, to `shiftedBank`. -/
theorem bankShiftInsertsTheTopBit : Obligations.BankShiftInsertsTheTopBit :=
  fun s h v => ⟨fun hlo hhi => decode_bw_upper ⟨hlo, hhi⟩ _ v, exec_bankShift h v s⟩

/-! ### Loading the bank (R193) -/

/-- The bank after the bank writes `vs`, the first one first. -/
def loadedBank (c : Config) (bank : Nat) (vs : List Byte) : Nat :=
  vs.foldl (fun n v => shiftedBank c n (shiftBit c v)) bank

theorem loadedBank_cons (c : Config) (bank : Nat) (v : Byte) (vs : List Byte) :
    loadedBank c bank (v :: vs) = loadedBank c (shiftedBank c bank (shiftBit c v)) vs := rfl

/-- Any run of bank writes completes and leaves `loadedBank`; `f` is how a write runs after the ones before it. -/
theorem foldl_bankShift {h : Nat} {f : Out → Byte → Out} (hf : ∀ u v, f (.next u) v = exec (.bankShift h v) u)
    (vs : List Byte) (s : State) : vs.foldl f (.next s) = .next (s.setBank (loadedBank s.cfg s.bank vs)) := by
  induction vs generalizing s with
  | nil => rfl
  | cons v vs ih => rw [List.foldl_cons, hf, exec_bankShift, ih]; rfl

section
variable {c : Config} {bank : Nat}

theorem le_bankMask_iff (c : Config) (n : Nat) : n ≤ bankMask c ↔ n < 2 ^ c.bankBits :=
  Nat.le_sub_one_iff_lt (Nat.two_pow_pos _)

theorem loadedBank_le (hbank : bank ≤ bankMask c) (vs : List Byte) : loadedBank c bank vs ≤ bankMask c := by
  induction vs generalizing bank with
  | nil => exact hbank
  | cons v vs ih => exact ih (shiftedBank_le c bank _)

theorem shiftBit_eq_toNat (c : Config) (v : Byte) : shiftBit c v = (v.getLsbD c.shiftDataBit).toNat := by
  rw [shiftBit, Nat.and_one_is_mod, BitVec.getLsbD, Nat.toNat_testBit, Nat.shiftRight_eq_div_pow]

/-- One write moves every bit down one place and puts the written bit at the top (R192). -/
theorem testBit_shiftedBank (hbank : bank ≤ bankMask c) (v : Byte) {j : Nat} (hj : j < c.bankBits) :
    (shiftedBank c bank (shiftBit c v)).testBit j =
      if j + 1 < c.bankBits then bank.testBit (j + 1) else v.getLsbD c.shiftDataBit := by
  have hmask : (bankMask c).testBit j = true := by simp [bankMask, hj]
  rw [shiftedBank, Nat.testBit_and, hmask, Bool.and_true, Nat.testBit_or, Nat.testBit_shiftRight,
    Nat.testBit_shiftLeft, shiftBit_eq_toNat, topBit, Nat.add_comm 1 j]
  split
  · next hlow =>
    have hnotTop : ¬ j ≥ c.bankBits - 1 := by omega
    rw [decide_eq_false hnotTop, Bool.false_and, Bool.or_false]
  · next htop =>
    have hhigh : bank.testBit (j + 1) = false :=
      Nat.testBit_lt_two_pow
        (((le_bankMask_iff c bank).mp hbank).trans_le (Nat.pow_le_pow_right (by decide) (Nat.not_lt.mp htop)))
    obtain rfl : j = c.bankBits - 1 := by omega
    rw [hhigh, Bool.false_or, decide_eq_true le_rfl, Bool.true_and, Nat.sub_self, Nat.testBit_bool_toNat,
      decide_eq_true rfl, Bool.true_and]

/-- The bits written last stand at the top, in order, above the remaining bits of the old bank (R193). -/
theorem testBit_loadedBank (hbank : bank ≤ bankMask c) (vs : List Byte) {j : Nat} (hj : j < c.bankBits) :
    (loadedBank c bank vs).testBit j =
      if j + vs.length < c.bankBits then bank.testBit (j + vs.length)
      else (vs.getD (j + vs.length - c.bankBits) 0#8).getLsbD c.shiftDataBit := by
  induction vs generalizing bank with
  | nil => exact (if_pos hj).symm
  | cons v vs ih =>
    rw [loadedBank_cons, ih (shiftedBank_le c bank _), List.length_cons]
    by_cases hold : j + vs.length < c.bankBits
    · rw [if_pos hold, testBit_shiftedBank hbank v hold, ← Nat.add_assoc]
      split
      · rfl
      · next htop =>
        have hfirst : j + vs.length + 1 - c.bankBits = 0 := by omega
        rw [hfirst]
        rfl
    · rw [if_neg hold, if_neg (by omega), ← Nat.add_assoc, Nat.succ_sub (Nat.not_lt.mp hold), List.getD_cons_succ]

end

/-- The low `n` bits of a number, weighted and summed. -/
theorem sum_testBit_shiftLeft (x n : Nat) :
    ((List.range n).map fun i => (x.testBit i).toNat <<< i).sum = x % 2 ^ n := by
  induction n with
  | zero => exact (Nat.mod_one x).symm
  | succ n ih =>
    rw [List.range_succ, List.map_append, List.sum_append, ih, List.map_singleton,
      List.sum_singleton, Nat.toNat_testBit, Nat.shiftLeft_eq, Nat.mod_pow_succ, Nat.mul_comm]

/-- After `BANK_BITS` writes every bit is one of theirs, the first at bit 0, whatever the bank was (R193). -/
theorem loadedBank_eq_sum {c : Config} {bank : Nat} (hbank : bank ≤ bankMask c) {vs : List Byte}
    (hlen : vs.length = c.bankBits) :
    loadedBank c bank vs =
      ((List.range c.bankBits).map fun i => ((vs.getD i 0#8).getLsbD c.shiftDataBit).toNat <<< i).sum := by
  have hfits : loadedBank c bank vs < 2 ^ c.bankBits := (le_bankMask_iff c _).mp (loadedBank_le hbank vs)
  rw [← Nat.mod_eq_of_lt hfits, ← sum_testBit_shiftLeft]
  refine congrArg List.sum (List.map_congr_left fun j hj => ?_)
  rw [testBit_loadedBank hbank vs (List.mem_range.mp hj), hlen, if_neg (by omega), Nat.add_sub_cancel]

/-- Settles O33: the writes leave `loadedBank`, whose bits `testBit_loadedBank` names one by one. -/
theorem bankLoadTakesBankBitsWrites : Obligations.BankLoadTakesBankBitsWrites := by
  intro s h vs _ hbank _
  exact ⟨loadedBank s.cfg s.bank vs, foldl_bankShift (fun _ _ => rfl) vs s, loadedBank_le hbank vs,
    fun _ => testBit_loadedBank hbank vs, loadedBank_eq_sum hbank⟩

/-! ### Bank and chip (R196) -/

/-- The instruction `i` does not read the bank in `s`: with another bank in place it answers the same next state, with
that bank in place. -/
def BankFree (i : Instr) (s : State) : Prop :=
  ∃ t, exec i s = .next t ∧ ∀ b, exec i (s.setBank b) = .next (t.setBank b)

/-- The three array commands test the configuration and the delay switch, and the other rows test nothing (R196). -/
theorem bankFree_writeRow (r : WriteRow) (a : Nat) (v : Byte) (s : State) : BankFree (r.instr a v) s := by
  cases r with
  | program =>
    refine ⟨_, exec_program a v s, fun b => (exec_program a v (s.setBank b)).trans ?_⟩
    rw [State.programByte_eq, State.programByte_eq]
    rfl
  | chipErase => exact ⟨_, exec_chipErase s a v, fun b => exec_chipErase (s.setBank b) a v⟩
  | sectorErase =>
    refine ⟨_, exec_sectorErase s a v, fun b => (exec_sectorErase (s.setBank b) a v).trans ?_⟩
    rw [State.eraseSector_eq, State.eraseSector_eq]
    rfl
  | _ => exact ⟨_, rfl, fun _ => rfl⟩

theorem bankFree_readRow (r : ReadRow) (a : Nat) (s : State) : BankFree (r.instr a) s := by
  cases r <;> exact ⟨_, rfl, fun _ => rfl⟩

/-- With the state's own bank in place nothing changes, so the bank is kept. -/
theorem bank_eq_of_setBank {i : Instr} {s t : State} (h : exec i s = .next t)
    (hbank : ∀ b, exec i (s.setBank b) = .next (t.setBank b)) : t.bank = s.bank := by
  have hown : Host.Outcome.next t = Host.Outcome.next (t.setBank s.bank) := h.symm.trans (hbank s.bank)
  injection hown with ht
  exact (congrArg State.bank ht).trans (t.setBank_bank s.bank)

/-- Settles O34: the decode context holds no bank, no row of a chip write or read reads it, and BANK_SHIFT reads no
deadline. -/
theorem bankAndChipAreIndependent : Obligations.BankAndChipAreIndependent := by
  intro s c i b hc hdec
  have hfree : BankFree i s := by
    obtain ⟨a, v, rfl⟩ | ⟨a, rfl⟩ := hc
    · cases hdec; exact bankFree_writeRow _ a v s
    · cases hdec; exact bankFree_readRow _ a s
  have hdec' : State.decodesTo (s.setBank b) c i := hdec
  obtain ⟨t, ht, hbank⟩ := hfree
  exact ⟨⟨t, ht, bank_eq_of_setBank ht hbank, hdec', hbank b⟩, State.chipReset_bank s,
    fun h v => ⟨_, exec_bankShift h v s, exec_bankShift h v _⟩⟩

end Sys2Proof.Machine
end

section
/-! PROOFS. The exceptions family (60_exceptions.md): every instruction completes, in and outside its context. -/

namespace Sys2Proof.Machine

/-- The instruction `i` answers a next state in `s`, with the configuration, the host's inputs (R31) and the script
of `s` (R211). -/
def CompletesInFrame (i : Instr) (s : State) : Prop :=
  ∃ t, exec i s = .next t ∧
    t.cfg = s.cfg ∧ t.delaysEnabled = s.delaysEnabled ∧ t.clock = s.clock ∧ t.script = s.script

/-- A forwarded write is a chip write, which completes at every flat address (R191). -/
theorem completesInFrame_flashForward (h : Nat) (v : Byte) (s : State) : CompletesInFrame (.flashForward h v) s := by
  obtain ⟨t, ht⟩ := chipWrite_completes (s.flatOf h) v s
  obtain ⟨hcfg, hdelays, hclock, hscript, -⟩ := (chipWrite_effect ht).frame
  exact ⟨t, ht, hcfg, hdelays, hclock, hscript⟩

/-- Each of the chip's three answers completes, and the read beyond the array is a draw (R46, R194). -/
theorem completesInFrame_windowRead (h : Nat) (s : State) : CompletesInFrame (.windowRead h) s := by
  cases hid : s.softwareId with
  | true => exact ⟨_, exec_windowRead_softwareId hid, rfl, rfl, rfl, rfl⟩
  | false =>
    obtain hbusy | hidle := Nat.lt_or_ge s.clock s.busyUntilClock
    · exact ⟨_, exec_windowRead_busy hid hbusy, rfl, rfl, rfl, rfl⟩
    · refine ⟨_, exec_windowRead_absent hid hidle, ?_⟩
      split <;> exact ⟨rfl, rfl, rfl, rfl⟩

/-- Settles O36: PROGRAM and SECTOR_ERASE complete on both sides of their bounds, a chip erase with and without a busy
window, and a window access as the chip does; the other rows test nothing. -/
theorem everyInstructionCompletes : Obligations.EveryInstructionCompletes := by
  intro i s
  cases i with
  | program a v =>
    refine ⟨_, exec_program a v s, ?_⟩
    rw [State.programByte_eq]
    exact ⟨rfl, rfl, rfl, rfl⟩
  | chipErase a v => exact ⟨_, exec_chipErase s a v, rfl, rfl, rfl, rfl⟩
  | sectorErase a v =>
    refine ⟨_, exec_sectorErase s a v, ?_⟩
    rw [State.eraseSector_eq]
    exact ⟨rfl, rfl, rfl, rfl⟩
  | flashForward h v => exact completesInFrame_flashForward h v s
  | windowRead h => exact completesInFrame_windowRead h s
  | _ => exact ⟨_, rfl, rfl, rfl, rfl, rfl⟩

end Sys2Proof.Machine
end

section
/-! PROOFS. The reset and hazards family (70_reset_and_hazards.md): what the two resets leave, and what a host that
polls a busy chip by the toggle bit or by the data# bit reads. -/

namespace Sys2Proof.Machine

/-! ### The status byte under busy reads (R172, R82) -/

section
variable {c : Config}

/-- The mask `1 << k` of a status bit has bit `k` of the byte and no other. -/
theorem getLsbD_one_shiftLeft (k : Nat) {i : Nat} (hi : i < 8) : (1#8 <<< k).getLsbD i = decide (i = k) := by
  rw [← BitVec.twoPow_eq, BitVec.getLsbD_twoPow, ← Bool.decide_and]
  exact decide_eq_decide.mpr ⟨fun h => h.2.symm, fun h => ⟨h ▸ hi, h.symm⟩⟩

/-- A busy read flips the toggle bit and no other (R82). -/
theorem getLsbD_toggledStatus (c : Config) (b : Byte) {i : Nat} (hi : i < 8) :
    (toggledStatus c b).getLsbD i = (b.getLsbD i ^^ decide (i = c.toggleBit)) := by
  rw [toggledStatus, BitVec.getLsbD_xor, getLsbD_one_shiftLeft _ hi]

/-- The toggle bit is a bit of the byte (R7), so no busy read returns the byte that the one before it did. -/
theorem toggledStatus_ne (htoggle : c.toggleBit < 8) (b : Byte) : toggledStatus c b ≠ b := by
  intro h
  have hbit := getLsbD_toggledStatus c b htoggle
  rw [h, decide_eq_true rfl, Bool.xor_true] at hbit
  exact Bool.not_ne_self _ hbit.symm

/-- A window starts with its data# bit at `DATA_POLL_BIT`. -/
theorem getLsbD_startStatus (hpoll : c.dataPollBit < 8) (d : Bool) :
    (startStatus c d).getLsbD c.dataPollBit = d := by
  cases d with
  | false => exact BitVec.getLsbD_zero
  | true => exact (getLsbD_one_shiftLeft _ hpoll).trans (decide_eq_true rfl)

/-- The data# bit is not the toggle bit (R7), so it stays through any number of busy reads. -/
theorem getLsbD_toggled_startStatus (hwf : c.wf) (d : Bool) (n : Nat) :
    ((toggledStatus c)^[n] (startStatus c d)).getLsbD c.dataPollBit = d := by
  obtain ⟨-, -, -, hpoll, -, hne, -⟩ := hwf
  induction n with
  | zero => exact getLsbD_startStatus hpoll d
  | succ n ih =>
    rw [Function.iterate_succ_apply', getLsbD_toggledStatus c _ hpoll, ih, decide_eq_false hne, Bool.xor_false]

end

/-! ### A window read as a step (R194) -/

section
variable {s : State} {t h : Nat} {rest : List Access}

/-- The byte that a window read of `h` at clock `t` returns, when its flat address is in the array. -/
def State.windowByte (s : State) (t h : Nat) : Byte :=
  if s.softwareId then idByte s.cfg (s.flatOf h)
  else if t < s.busyUntilClock then toggledStatus s.cfg s.busyStatusByte
  else s.mem.read (s.flatOf h)

/-- The status byte that it leaves. -/
def State.polledStatus (s : State) (t : Nat) : Byte :=
  if s.softwareId = false ∧ t < s.busyUntilClock then toggledStatus s.cfg s.busyStatusByte else s.busyStatusByte

theorem State.windowByte_softwareId (hid : s.softwareId = true) (t h : Nat) :
    s.windowByte t h = idByte s.cfg (s.flatOf h) := if_pos hid

theorem State.windowByte_busy (hid : s.softwareId = false) (hbusy : t < s.busyUntilClock) (h : Nat) :
    s.windowByte t h = toggledStatus s.cfg s.busyStatusByte :=
  (if_neg (Bool.eq_false_iff.mp hid)).trans (if_pos hbusy)

theorem State.windowByte_idle (hid : s.softwareId = false) (hidle : s.busyUntilClock ≤ t) (h : Nat) :
    s.windowByte t h = s.mem.read (s.flatOf h) :=
  (if_neg (Bool.eq_false_iff.mp hid)).trans (if_neg (Nat.not_lt.mpr hidle))

theorem State.polledStatus_busy (hid : s.softwareId = false) (hbusy : t < s.busyUntilClock) :
    s.polledStatus t = toggledStatus s.cfg s.busyStatusByte := if_pos ⟨hid, hbusy⟩

theorem State.polledStatus_softwareId (hid : s.softwareId = true) (t : Nat) : s.polledStatus t = s.busyStatusByte :=
  if_neg fun hc => Bool.eq_false_iff.mp hc.1 hid

theorem State.polledStatus_idle (hidle : s.busyUntilClock ≤ t) : s.polledStatus t = s.busyStatusByte :=
  if_neg fun hc => Nat.not_lt.mpr hidle hc.2

/-- The state after a window read of `h` at clock `t` in the array. -/
def State.afterRead (s : State) (t h : Nat) (rest : List Access) : State :=
  ((s.begin t rest).setStatus (s.polledStatus t)).respond (.byte (s.windowByte t h))

/-- In the array a window read writes nothing but the toggle bit, in all three cases of the chip read. -/
theorem step_windowRead (hwf : s.cfg.wf) (hs : s.script = ⟨t, .cycle (.br h)⟩ :: rest) (hwin : s.cfg.inWindow h)
    (hflat : s.flatOf h < s.cfg.flashSize) : step s = .next (s.afterRead t h rest) := by
  have hstep : step s = exec (.windowRead h) (s.begin t rest) :=
    (step_perform hwf hs).trans (performCycle_br_window (s := s.begin t rest) hwin)
  rw [hstep, State.afterRead]
  cases hid : s.softwareId with
  | true =>
    rw [exec_windowRead_softwareId (s := s.begin t rest) hid, State.windowByte_softwareId hid,
      State.polledStatus_softwareId hid]
    rfl
  | false =>
    obtain hbusy | hidle := Nat.lt_or_ge t s.busyUntilClock
    · rw [exec_windowRead_busy (s := s.begin t rest) hid hbusy, State.windowByte_busy hid hbusy,
        State.polledStatus_busy hid hbusy]
      rfl
    · rw [exec_windowRead_absent (s := s.begin t rest) hid hidle, State.windowByte_idle hid hidle,
        State.polledStatus_idle hidle]
      exact congrArg _ (if_pos hflat)

/-! ### Two window reads of one host address -/

/-- In software-ID mode both reads return the ID byte of the address. -/
theorem State.windowByte_afterRead_softwareId (hid : s.softwareId = true) (t₁ t₂ h : Nat) (rest : List Access) :
    (s.afterRead t₁ h rest).windowByte t₂ h = s.windowByte t₁ h :=
  (State.windowByte_softwareId (s := s.afterRead t₁ h rest) hid t₂ h).trans
    (State.windowByte_softwareId hid t₁ h).symm

/-- Of two busy reads the second flips the bit that the first returned. -/
theorem State.windowByte_afterRead_busy {t₁ t₂ : Nat} (hid : s.softwareId = false) (h₁ : t₁ < s.busyUntilClock)
    (h₂ : t₂ < s.busyUntilClock) (h : Nat) (rest : List Access) :
    (s.afterRead t₁ h rest).windowByte t₂ h = toggledStatus s.cfg (s.windowByte t₁ h) :=
  calc (s.afterRead t₁ h rest).windowByte t₂ h
      = toggledStatus s.cfg (s.polledStatus t₁) := State.windowByte_busy (s := s.afterRead t₁ h rest) hid h₂ h
    _ = toggledStatus s.cfg (s.windowByte t₁ h) := by
      rw [State.polledStatus_busy hid h₁, State.windowByte_busy hid h₁]

/-- A second read that is not busy returns the array byte, which the first left alone. -/
theorem State.windowByte_afterRead_idle {t₁ t₂ : Nat} (hid : s.softwareId = false) (h₂ : s.busyUntilClock ≤ t₂)
    (h : Nat) (rest : List Access) :
    (s.afterRead t₁ h rest).windowByte t₂ h = s.mem.read (s.flatOf h) :=
  State.windowByte_idle (s := s.afterRead t₁ h rest) hid h₂ h

/-- Out of software-ID mode two reads agree in exactly the two cases of R237. -/
theorem State.windowByte_afterRead_eq_iff {t₁ t₂ : Nat} (htoggle : s.cfg.toggleBit < 8) (hid : s.softwareId = false)
    (hle : t₁ ≤ t₂) (h : Nat) (rest : List Access) :
    s.windowByte t₁ h = (s.afterRead t₁ h rest).windowByte t₂ h ↔
      (s.busyUntilClock ≤ t₁ ∧ s.busyUntilClock ≤ t₂) ∨
      (t₁ < s.busyUntilClock ∧ s.busyUntilClock ≤ t₂ ∧ s.mem.read (s.flatOf h) = s.windowByte t₁ h) := by
  obtain hbusy₂ | hidle₂ := Nat.lt_or_ge t₂ s.busyUntilClock
  · rw [State.windowByte_afterRead_busy hid (Nat.lt_of_le_of_lt hle hbusy₂) hbusy₂]
    have hne : s.windowByte t₁ h ≠ toggledStatus s.cfg (s.windowByte t₁ h) := (toggledStatus_ne htoggle _).symm
    simp [hne, hbusy₂]
  · rw [State.windowByte_afterRead_idle hid hidle₂]
    obtain hbusy₁ | hidle₁ := Nat.lt_or_ge t₁ s.busyUntilClock
    · simp [hbusy₁, hidle₂, eq_comm]
    · simp [hidle₁, hidle₂, State.windowByte_idle hid hidle₁]

end

/-! ### The obligations of the family -/

/-- Settles O29: each read is `State.afterRead`, which keeps all that the next read looks at but the toggle bit. -/
theorem consecutiveWindowReadsAgreeAsR237Says : Obligations.ConsecutiveWindowReadsAgreeAsR237Says := by
  rintro s t₁ t₂ h fa rest hwf hle hs hlo hhi rfl hflat
  have ⟨_, _, _, _, htoggle, _⟩ := hwf
  refine ⟨_, _, _, _, step_windowRead hwf hs ⟨hlo, hhi⟩ hflat, rfl,
    step_windowRead (s := s.afterRead t₁ h _) hwf rfl ⟨hlo, hhi⟩ hflat, rfl, fun hid => ⟨?_, ?_⟩, fun hid => ?_⟩
  · exact State.windowByte_afterRead_eq_iff htoggle hid hle h _
  · exact fun hbusy₁ hbusy₂ => State.windowByte_afterRead_busy hid hbusy₁ hbusy₂ h _
  · exact (State.windowByte_afterRead_softwareId hid t₁ t₂ h _).symm

/-- Settles O30: the window's status byte starts with the command's data# bit and keeps it through the toggles, and the
byte in the array is the one that the command leaves. -/
theorem dataPollingBitDuringProgramAndErase : Obligations.DataPollingBitDuringProgramAndErase := by
  intro s a v hwf hmem hdelays hpoll
  have hdata : ∀ d n, ((toggledStatus s.cfg)^[n] (startStatus s.cfg d)).getLsbD 7 = d :=
    hpoll ▸ getLsbD_toggled_startStatus hwf
  refine ⟨fun ha => ⟨_, exec_program a v s, fun n => ?_, ?_⟩, fun ha => ⟨_, exec_chipErase s a v, fun n => ?_, ?_⟩,
    fun hin => ⟨_, exec_sectorErase s a v, fun n => ?_, ?_⟩⟩
  · rw [State.abortCommand_busyStatusByte, State.setBusy_busyStatusByte, if_pos ⟨hdelays, .inl ha⟩]
    exact (hdata _ n).trans BitVec.getLsbD_not
  · rw [State.abortCommand_mem, State.setBusy_mem, State.read_programByte hmem, if_pos ⟨rfl, ha⟩]
    exact BitVec.getLsbD_and
  · rw [State.abortCommand_busyStatusByte, State.setBusy_busyStatusByte, if_pos hdelays]
    exact hdata eraseDataBit n
  · rw [State.abortCommand_mem, State.setBusy_mem, State.read_eraseChip, if_pos ha]
    rfl
  · rw [State.abortCommand_busyStatusByte, State.setBusy_busyStatusByte, if_pos ⟨hdelays, .inl hin⟩]
    exact hdata eraseDataBit n
  · have hfirst : sectorOffset s.cfg a < sectorOffset s.cfg a + sectorSize := Nat.lt_add_of_pos_right (by decide)
    rw [State.abortCommand_mem, State.setBusy_mem, State.read_eraseSector, if_pos ⟨hin, Nat.le_refl _, hfirst⟩]
    rfl

/-- Settles O10: the step is `State.chipReset` in the begun state. -/
theorem chipResetClearsTheFiveChipFields : Obligations.ChipResetClearsTheFiveChipFields :=
  fun _ _ _ hwf hs => ⟨_, step_perform hwf hs, rfl, rfl, rfl⟩

/-- Settles O11: the step is `State.hardReset` in the begun state, and a drawn bank has `BANK_BITS` bits. -/
theorem hardResetDrawsTheBank : Obligations.HardResetDrawsTheBank :=
  fun s t rest hwf hs => ⟨_, step_perform hwf hs, rfl, rfl, (s.begin t rest).chipReset.drawnBank_le, rfl⟩

end Sys2Proof.Machine
end
